-- ==== Sys2Proof/Word.lean ====
section
/-! DEFINITION. The fixed widths of the machine's values (00_scope.md R8, R9): a byte, a 16-bit word, a 12-bit
address immediate, and the index of one of the sixteen V registers. Every value is unsigned (R9). -/

namespace Sys2Proof

/-- 8 bits: a V register, a timer, a byte of memory, an immediate kk (R8 `BYTE`, `V_WIDTH`, `TIMER_WIDTH`). -/
abbrev Byte := BitVec 8

/-- 16 bits: an instruction word, I, PC, a stack entry (R8 `I_WIDTH`, `PC_WIDTH`, `STACK_ENTRY_WIDTH`). -/
abbrev Word := BitVec 16

/-- 12 bits: the address immediate nnn (30_encoding.md R91). -/
abbrev Imm12 := BitVec 12

/-- The index of a V register, 0 to 15 (10_state.md R21: every selector names an existing register). -/
abbrev Reg := Fin 16

/-- The flag register VF = V[15] (10_state.md R22). -/
abbrev vF : Reg := 15

end Sys2Proof
end

