-- ==== Sys2Proof/Config.lean ====
section
/-! DEFINITION. What is fixed for the machine: the constants of 00_scope.md R8 that the source fixes, and the one
free value, the random byte. The font (R38, a parameter of the spec) stands in Machine/Memory.lean. -/

namespace Sys2Proof

/-- R8 `MEM_SIZE`: memory is the bytes at addresses 0x000 to 0xFFF. -/
abbrev Config.memSize : Nat := 4096

/-- R8 `PROGRAM_BASE` and `PC_RESET`. -/
abbrev Config.programBase : Nat := 0x200

/-- R8 `STACK_DEPTH`. -/
abbrev Config.stackDepth : Nat := 16

/-- R8 `DISPLAY_WIDTH`. -/
abbrev Config.displayWidth : Nat := 64

/-- R8 `DISPLAY_HEIGHT`. -/
abbrev Config.displayHeight : Nat := 32

/-- R8 `NUM_KEYS`. -/
abbrev Config.numKeys : Nat := 16

/-- R8 `MAX_PROGRAM_LEN`, 4096 - 0x200. -/
abbrev Config.maxProgramLen : Nat := 3584

/-- R8 `RND` (OPEN), 43_index_random.md R183: the byte the k-th executed `Cxkk` is handed. FREE VALUE: it has no
body, so nothing can be proved about which byte it is (notes/assumptions/1.md). DESIGN CHOICE: a stream indexed by
the number of bytes used so far stands for the input of `tick`. Safe: every stream is allowed. -/
opaque Config.rnd : Nat → Byte

end Sys2Proof
end

