-- ==== Sys2Proof/Syntax.lean ====
section
/-! DEFINITION. The 35 instructions of 30_encoding.md R96 (spec/opcode_table.json, one constructor per row, in the
table's order), and the operations the outside world performs on the block (60_exceptions.md R252). -/

namespace Sys2Proof

/-- One constructor per row of the opcode map. `x`, `y` are register selectors (R91; `x` is also the count of
`Fx55` and `Fx65`), `n` a number of rows, `kk` and `nnn` immediates. The y nibble of the two shifts is a don't-care
(R99): it is kept so that the word can be read back, and no meaning reads it. -/
inductive Instr where
  /-- `0000` NOP, R123 -/
  | nop
  /-- `00E0` CLS, R124 -/
  | cls
  /-- `00EE` RET, R125 -/
  | ret
  /-- `1nnn` JP nnn, R126 -/
  | jp (nnn : Imm12)
  /-- `2nnn` CALL nnn, R127 -/
  | call (nnn : Imm12)
  /-- `3xkk` SE Vx kk, R141 -/
  | seImm (x : Reg) (kk : Byte)
  /-- `4xkk` SNE Vx kk, R142 -/
  | sneImm (x : Reg) (kk : Byte)
  /-- `5xy0` SE Vx Vy, R143 -/
  | seReg (x y : Reg)
  /-- `6xkk` LD Vx kk, R154 -/
  | ldImm (x : Reg) (kk : Byte)
  /-- `7xkk` ADD Vx kk, R155 -/
  | addImm (x : Reg) (kk : Byte)
  /-- `8xy0` LD Vx Vy, R156 -/
  | ldReg (x y : Reg)
  /-- `8xy1` OR Vx Vy, R157 -/
  | orReg (x y : Reg)
  /-- `8xy2` AND Vx Vy, R158 -/
  | andReg (x y : Reg)
  /-- `8xy3` XOR Vx Vy, R159 -/
  | xorReg (x y : Reg)
  /-- `8xy4` ADD Vx Vy, R160 -/
  | addReg (x y : Reg)
  /-- `8xy5` SUB Vx Vy, R161 -/
  | subReg (x y : Reg)
  /-- `8xy6` SHR Vx, R162 (y ignored) -/
  | shr (x y : Reg)
  /-- `8xy7` SUBN Vx Vy, R163 -/
  | subnReg (x y : Reg)
  /-- `8xyE` SHL Vx, R164 (y ignored) -/
  | shl (x y : Reg)
  /-- `9xy0` SNE Vx Vy, R144 -/
  | sneReg (x y : Reg)
  /-- `Annn` LD I nnn, R180 -/
  | ldI (nnn : Imm12)
  /-- `Bnnn` JP V0 nnn, R128 -/
  | jpV0 (nnn : Imm12)
  /-- `Cxkk` RND Vx kk, R182 -/
  | rnd (x : Reg) (kk : Byte)
  /-- `Dxyn` DRW Vx Vy n, R190 -/
  | drw (x y : Reg) (n : Fin 16)
  /-- `Ex9E` SKP Vx, R201 -/
  | skp (x : Reg)
  /-- `ExA1` SKNP Vx, R202 -/
  | sknp (x : Reg)
  /-- `Fx07` LD Vx DT, R212 -/
  | ldVxDt (x : Reg)
  /-- `Fx0A` LD Vx K, R203 -/
  | ldVxK (x : Reg)
  /-- `Fx15` LD DT Vx, R213 -/
  | ldDtVx (x : Reg)
  /-- `Fx18` LD ST Vx, R214 -/
  | ldStVx (x : Reg)
  /-- `Fx1E` ADD I Vx, R181 -/
  | addI (x : Reg)
  /-- `Fx29` LD F Vx, R215 -/
  | ldF (x : Reg)
  /-- `Fx33` LD B Vx, R216 -/
  | ldB (x : Reg)
  /-- `Fx55` LD [I] Vx, R217 -/
  | storeRegs (x : Reg)
  /-- `Fx65` LD Vx [I], R218 -/
  | loadRegs (x : Reg)
  deriving DecidableEq, Repr

/-- The operations of 60_exceptions.md R252: all the outside world can do to the block. -/
inductive HostOp where
  /-- R270 -/
  | reset
  /-- 20_memory.md R80 -/
  | loadProgram (image : List Byte)
  /-- 40_control_flow.md R120; `rnd` is the free input of 43_index_random.md R183 -/
  | tick (rnd : Byte)
  /-- R245 -/
  | timerTick
  /-- R249 -/
  | setKey (index : Nat) (pressed : Bool)
  /-- R248 -/
  | readDisplay
  deriving DecidableEq, Repr

end Sys2Proof
end

