-- ==== Sys2Proof/WellFormed.lean ====
section
/-! DEFINITION. Well-formedness of the syntax. An instruction's fields have exactly the widths the word gives them,
so every term of `Instr` is well formed (30_encoding.md R93, 10_state.md R21: no selector can be out of range). The
host's operations carry unbounded arguments, and two of them have a contract the host must keep. -/

namespace Sys2Proof

/-- R93: "every value 0..15 is valid"; an immediate takes every value of its field. -/
def Instr.wellFormed : Instr → Bool
  | .nop | .cls | .ret => true
  | .jp _ | .call _ | .ldI _ | .jpV0 _ => true
  | .seImm _ _ | .sneImm _ _ | .ldImm _ _ | .addImm _ _ | .rnd _ _ => true
  | .seReg _ _ | .sneReg _ _ | .ldReg _ _ | .orReg _ _ | .andReg _ _ | .xorReg _ _ => true
  | .addReg _ _ | .subReg _ _ | .shr _ _ | .subnReg _ _ | .shl _ _ => true
  | .drw _ _ _ => true
  | .skp _ | .sknp _ | .ldVxDt _ | .ldVxK _ | .ldDtVx _ | .ldStVx _ | .addI _ => true
  | .ldF _ | .ldB _ | .storeRegs _ | .loadRegs _ => true

/-- The arguments the contract of an operation allows: a key index of 0 to 15 (60_exceptions.md R249) and an image
that fits between 0x200 and the end of memory (20_memory.md R80). -/
def HostOp.wellFormed : HostOp → Bool
  | .reset | .tick _ | .timerTick | .readDisplay => true
  | .loadProgram image => decide (Config.programBase + image.length ≤ Config.memSize)
  | .setKey index _ => decide (index < Config.numKeys)

end Sys2Proof
end

