-- ==== Sys2Proof/Decode.lean ====
section
/-! DEFINITION. The fields and formats of an instruction word (30_encoding.md R91, R92), the decoder (R94), the opcode
map (R96), and the encoder written from the same patterns. PRESUMED, unsafe: all opcode values but 6xkk and Annn are
general knowledge of the family, as the spec says (R95, decision D1; notes/assumptions/5.md). -/

namespace Sys2Proof

/-! ### Fields (R91) -/

/-- `w[15:12]`, the opcode class. -/
def fieldClass (w : Word) : BitVec 4 := w.extractLsb' 12 4

/-- `w[11:8]`, the first register selector. -/
def fieldX (w : Word) : Reg := (w.extractLsb' 8 4).toFin

/-- `w[7:4]`, the second register selector. -/
def fieldY (w : Word) : Reg := (w.extractLsb' 4 4).toFin

/-- `w[3:0]`, the 4-bit immediate or sub-opcode. -/
def fieldN (w : Word) : Fin 16 := (w.extractLsb' 0 4).toFin

/-- `w[7:0]`, the 8-bit immediate or sub-opcode. -/
def fieldKk (w : Word) : Byte := w.extractLsb' 0 8

/-- `w[11:0]`, the 12-bit address immediate. -/
def fieldNnn (w : Word) : Imm12 := w.extractLsb' 0 12

/-! ### Formats (R92) -/

/-- `cccc nnnn nnnn nnnn` -/
def wordNnn (c : BitVec 4) (nnn : Imm12) : Word := c ++ nnn

/-- `cccc xxxx kkkk kkkk`; with a fixed low byte it is also the format XSS. -/
def wordXkk (c : BitVec 4) (x : Reg) (kk : Byte) : Word := c ++ BitVec.ofFin (w := 4) x ++ kk

/-- `cccc xxxx yyyy nnnn`; with a fixed low nibble it is also the format XYS. -/
def wordXyn (c : BitVec 4) (x y n : Fin 16) : Word :=
  c ++ BitVec.ofFin (w := 4) x ++ BitVec.ofFin (w := 4) y ++ BitVec.ofFin (w := 4) n

/-! ### Decoder -/

/-- The decode function of R94, total on all 65536 words; `none` is `Undefined`. The class has four bits, so the
last arm of the outer match is never reached. -/
def decodeWord (w : Word) : Option Instr :=
  let x := fieldX w
  let y := fieldY w
  let n := fieldN w
  let kk := fieldKk w
  let nnn := fieldNnn w
  match (fieldClass w).toNat with
  | 0x0 =>
    if w = 0x0000#16 then some .nop
    else if w = 0x00E0#16 then some .cls
    else if w = 0x00EE#16 then some .ret
    else none
  | 0x1 => some (.jp nnn)
  | 0x2 => some (.call nnn)
  | 0x3 => some (.seImm x kk)
  | 0x4 => some (.sneImm x kk)
  | 0x5 => if n.val = 0 then some (.seReg x y) else none
  | 0x6 => some (.ldImm x kk)
  | 0x7 => some (.addImm x kk)
  | 0x8 =>
    match n.val with
    | 0x0 => some (.ldReg x y)
    | 0x1 => some (.orReg x y)
    | 0x2 => some (.andReg x y)
    | 0x3 => some (.xorReg x y)
    | 0x4 => some (.addReg x y)
    | 0x5 => some (.subReg x y)
    | 0x6 => some (.shr x y)
    | 0x7 => some (.subnReg x y)
    | 0xE => some (.shl x y)
    | _ => none
  | 0x9 => if n.val = 0 then some (.sneReg x y) else none
  | 0xA => some (.ldI nnn)
  | 0xB => some (.jpV0 nnn)
  | 0xC => some (.rnd x kk)
  | 0xD => some (.drw x y n)
  | 0xE =>
    if kk = 0x9E#8 then some (.skp x)
    else if kk = 0xA1#8 then some (.sknp x)
    else none
  | 0xF =>
    if kk = 0x07#8 then some (.ldVxDt x)
    else if kk = 0x0A#8 then some (.ldVxK x)
    else if kk = 0x15#8 then some (.ldDtVx x)
    else if kk = 0x18#8 then some (.ldStVx x)
    else if kk = 0x1E#8 then some (.addI x)
    else if kk = 0x29#8 then some (.ldF x)
    else if kk = 0x33#8 then some (.ldB x)
    else if kk = 0x55#8 then some (.storeRegs x)
    else if kk = 0x65#8 then some (.loadRegs x)
    else none
  | _ => none

/-- Why bytes do not decode. -/
inductive DecodeError where
  /-- fewer than the two bytes of an instruction (R90) -/
  | truncated
  /-- the word matches no pattern (R97) -/
  | undefinedWord (w : Word)
  deriving DecidableEq, Repr

/-- Two bytes read big-endian: `hi * 256 + lo` (R90, 20_memory.md R66). -/
def wordOfBytes (hi lo : Byte) : Word := hi ++ lo

/-- Reads one instruction from the front of any byte sequence: the instruction and the bytes after it, or the reason. -/
def decode : List Byte → Except DecodeError (Instr × List Byte)
  | hi :: lo :: rest =>
    match decodeWord (wordOfBytes hi lo) with
    | some i => .ok (i, rest)
    | none => .error (.undefinedWord (wordOfBytes hi lo))
  | [_] => .error .truncated
  | [] => .error .truncated

/-! ### Encoder -/

/-- The word of an instruction, from the patterns of R96. -/
def encodeWord : Instr → Word
  | .nop => 0x0000#16
  | .cls => 0x00E0#16
  | .ret => 0x00EE#16
  | .jp nnn => wordNnn 0x1#4 nnn
  | .call nnn => wordNnn 0x2#4 nnn
  | .seImm x kk => wordXkk 0x3#4 x kk
  | .sneImm x kk => wordXkk 0x4#4 x kk
  | .seReg x y => wordXyn 0x5#4 x y 0x0
  | .ldImm x kk => wordXkk 0x6#4 x kk
  | .addImm x kk => wordXkk 0x7#4 x kk
  | .ldReg x y => wordXyn 0x8#4 x y 0x0
  | .orReg x y => wordXyn 0x8#4 x y 0x1
  | .andReg x y => wordXyn 0x8#4 x y 0x2
  | .xorReg x y => wordXyn 0x8#4 x y 0x3
  | .addReg x y => wordXyn 0x8#4 x y 0x4
  | .subReg x y => wordXyn 0x8#4 x y 0x5
  | .shr x y => wordXyn 0x8#4 x y 0x6
  | .subnReg x y => wordXyn 0x8#4 x y 0x7
  | .shl x y => wordXyn 0x8#4 x y 0xE
  | .sneReg x y => wordXyn 0x9#4 x y 0x0
  | .ldI nnn => wordNnn 0xA#4 nnn
  | .jpV0 nnn => wordNnn 0xB#4 nnn
  | .rnd x kk => wordXkk 0xC#4 x kk
  | .drw x y n => wordXyn 0xD#4 x y n
  | .skp x => wordXkk 0xE#4 x 0x9E#8
  | .sknp x => wordXkk 0xE#4 x 0xA1#8
  | .ldVxDt x => wordXkk 0xF#4 x 0x07#8
  | .ldVxK x => wordXkk 0xF#4 x 0x0A#8
  | .ldDtVx x => wordXkk 0xF#4 x 0x15#8
  | .ldStVx x => wordXkk 0xF#4 x 0x18#8
  | .addI x => wordXkk 0xF#4 x 0x1E#8
  | .ldF x => wordXkk 0xF#4 x 0x29#8
  | .ldB x => wordXkk 0xF#4 x 0x33#8
  | .storeRegs x => wordXkk 0xF#4 x 0x55#8
  | .loadRegs x => wordXkk 0xF#4 x 0x65#8

/-- The two bytes of a word as they lie in memory, high byte first (20_memory.md R66). -/
def bytesOfWord (w : Word) : List Byte := [w.extractLsb' 8 8, w.extractLsb' 0 8]

/-- The bytes of an instruction. -/
def encode (i : Instr) : List Byte := bytesOfWord (encodeWord i)

/-! ### The opcode map (R96) -/

/-- One row: a word `w` is the instruction iff `w AND mask = value`. -/
structure OpcodeRow where
  mnemonic : String
  value : Word
  mask : Word
  deriving DecidableEq, Repr

/-- The 35 rows of R96, in the table's order. -/
def opcodeMap : List OpcodeRow :=
  [⟨"NOP", 0x0000, 0xFFFF⟩, ⟨"CLS", 0x00E0, 0xFFFF⟩, ⟨"RET", 0x00EE, 0xFFFF⟩, ⟨"JP_nnn", 0x1000, 0xF000⟩,
   ⟨"CALL_nnn", 0x2000, 0xF000⟩, ⟨"SE_Vx_kk", 0x3000, 0xF000⟩, ⟨"SNE_Vx_kk", 0x4000, 0xF000⟩] ++
  [⟨"SE_Vx_Vy", 0x5000, 0xF00F⟩, ⟨"LD_Vx_kk", 0x6000, 0xF000⟩, ⟨"ADD_Vx_kk", 0x7000, 0xF000⟩,
   ⟨"LD_Vx_Vy", 0x8000, 0xF00F⟩, ⟨"OR_Vx_Vy", 0x8001, 0xF00F⟩, ⟨"AND_Vx_Vy", 0x8002, 0xF00F⟩,
   ⟨"XOR_Vx_Vy", 0x8003, 0xF00F⟩] ++
  [⟨"ADD_Vx_Vy", 0x8004, 0xF00F⟩, ⟨"SUB_Vx_Vy", 0x8005, 0xF00F⟩, ⟨"SHR_Vx", 0x8006, 0xF00F⟩,
   ⟨"SUBN_Vx_Vy", 0x8007, 0xF00F⟩, ⟨"SHL_Vx", 0x800E, 0xF00F⟩, ⟨"SNE_Vx_Vy", 0x9000, 0xF00F⟩,
   ⟨"LD_I_nnn", 0xA000, 0xF000⟩] ++
  [⟨"JP_V0_nnn", 0xB000, 0xF000⟩, ⟨"RND_Vx_kk", 0xC000, 0xF000⟩, ⟨"DRW_Vx_Vy_n", 0xD000, 0xF000⟩,
   ⟨"SKP_Vx", 0xE09E, 0xF0FF⟩, ⟨"SKNP_Vx", 0xE0A1, 0xF0FF⟩, ⟨"LD_Vx_DT", 0xF007, 0xF0FF⟩,
   ⟨"LD_Vx_K", 0xF00A, 0xF0FF⟩] ++
  [⟨"LD_DT_Vx", 0xF015, 0xF0FF⟩, ⟨"LD_ST_Vx", 0xF018, 0xF0FF⟩, ⟨"ADD_I_Vx", 0xF01E, 0xF0FF⟩,
   ⟨"LD_F_Vx", 0xF029, 0xF0FF⟩, ⟨"LD_B_Vx", 0xF033, 0xF0FF⟩, ⟨"LD__I__Vx", 0xF055, 0xF0FF⟩,
   ⟨"LD_Vx__I", 0xF065, 0xF0FF⟩]

/-- The mnemonic of the row an instruction belongs to. -/
def Instr.mnemonic : Instr → String
  | .nop => "NOP"
  | .cls => "CLS"
  | .ret => "RET"
  | .jp _ => "JP_nnn"
  | .call _ => "CALL_nnn"
  | .seImm _ _ => "SE_Vx_kk"
  | .sneImm _ _ => "SNE_Vx_kk"
  | .seReg _ _ => "SE_Vx_Vy"
  | .ldImm _ _ => "LD_Vx_kk"
  | .addImm _ _ => "ADD_Vx_kk"
  | .ldReg _ _ => "LD_Vx_Vy"
  | .orReg _ _ => "OR_Vx_Vy"
  | .andReg _ _ => "AND_Vx_Vy"
  | .xorReg _ _ => "XOR_Vx_Vy"
  | .addReg _ _ => "ADD_Vx_Vy"
  | .subReg _ _ => "SUB_Vx_Vy"
  | .shr _ _ => "SHR_Vx"
  | .subnReg _ _ => "SUBN_Vx_Vy"
  | .shl _ _ => "SHL_Vx"
  | .sneReg _ _ => "SNE_Vx_Vy"
  | .ldI _ => "LD_I_nnn"
  | .jpV0 _ => "JP_V0_nnn"
  | .rnd _ _ => "RND_Vx_kk"
  | .drw _ _ _ => "DRW_Vx_Vy_n"
  | .skp _ => "SKP_Vx"
  | .sknp _ => "SKNP_Vx"
  | .ldVxDt _ => "LD_Vx_DT"
  | .ldVxK _ => "LD_Vx_K"
  | .ldDtVx _ => "LD_DT_Vx"
  | .ldStVx _ => "LD_ST_Vx"
  | .addI _ => "ADD_I_Vx"
  | .ldF _ => "LD_F_Vx"
  | .ldB _ => "LD_B_Vx"
  | .storeRegs _ => "LD__I__Vx"
  | .loadRegs _ => "LD_Vx__I"

/-! ### Assembler syntax (R101, R102) -/

/-- One hexadecimal digit. -/
def hexDigit (n : Nat) : String :=
  match n with
  | 0 => "0" | 1 => "1" | 2 => "2" | 3 => "3" | 4 => "4" | 5 => "5" | 6 => "6" | 7 => "7"
  | 8 => "8" | 9 => "9" | 10 => "A" | 11 => "B" | 12 => "C" | 13 => "D" | 14 => "E" | _ => "F"

/-- R102: a register, `V0` to `VF`. -/
def regName (x : Reg) : String := "V" ++ hexDigit x.val

/-- R102: an immediate kk, in hexadecimal. -/
def kkName (kk : Byte) : String := "0x" ++ hexDigit (kk.toNat / 16) ++ hexDigit (kk.toNat % 16)

/-- R102: an address nnn, in hexadecimal. -/
def nnnName (nnn : Imm12) : String :=
  "0x" ++ hexDigit (nnn.toNat / 256) ++ hexDigit (nnn.toNat / 16 % 16) ++ hexDigit (nnn.toNat % 16)

/-- R102: a number of rows, in decimal. -/
def rowsName (n : Fin 16) : String := if n.val < 10 then hexDigit n.val else "1" ++ hexDigit (n.val - 10)

/-- R102: the mnemonic and its operands, destination first, single spaces and no commas. A naming convention of the
spec (decision D21); there is no pseudo-instruction (R103). -/
def Instr.assembly : Instr → String
  | .nop => "NOP"
  | .cls => "CLS"
  | .ret => "RET"
  | .jp nnn => "JP " ++ nnnName nnn
  | .call nnn => "CALL " ++ nnnName nnn
  | .seImm x kk => "SE " ++ regName x ++ " " ++ kkName kk
  | .sneImm x kk => "SNE " ++ regName x ++ " " ++ kkName kk
  | .seReg x y => "SE " ++ regName x ++ " " ++ regName y
  | .ldImm x kk => "LD " ++ regName x ++ " " ++ kkName kk
  | .addImm x kk => "ADD " ++ regName x ++ " " ++ kkName kk
  | .ldReg x y => "LD " ++ regName x ++ " " ++ regName y
  | .orReg x y => "OR " ++ regName x ++ " " ++ regName y
  | .andReg x y => "AND " ++ regName x ++ " " ++ regName y
  | .xorReg x y => "XOR " ++ regName x ++ " " ++ regName y
  | .addReg x y => "ADD " ++ regName x ++ " " ++ regName y
  | .subReg x y => "SUB " ++ regName x ++ " " ++ regName y
  | .shr x _ => "SHR " ++ regName x
  | .subnReg x y => "SUBN " ++ regName x ++ " " ++ regName y
  | .shl x _ => "SHL " ++ regName x
  | .sneReg x y => "SNE " ++ regName x ++ " " ++ regName y
  | .ldI nnn => "LD I " ++ nnnName nnn
  | .jpV0 nnn => "JP V0 " ++ nnnName nnn
  | .rnd x kk => "RND " ++ regName x ++ " " ++ kkName kk
  | .drw x y n => "DRW " ++ regName x ++ " " ++ regName y ++ " " ++ rowsName n
  | .skp x => "SKP " ++ regName x
  | .sknp x => "SKNP " ++ regName x
  | .ldVxDt x => "LD " ++ regName x ++ " DT"
  | .ldVxK x => "LD " ++ regName x ++ " K"
  | .ldDtVx x => "LD DT " ++ regName x
  | .ldStVx x => "LD ST " ++ regName x
  | .addI x => "ADD I " ++ regName x
  | .ldF x => "LD F " ++ regName x
  | .ldB x => "LD B " ++ regName x
  | .storeRegs x => "LD [I] " ++ regName x
  | .loadRegs x => "LD " ++ regName x ++ " [I]"

/-! ### The host's question -/

/-- The instruction the decoder reads from the table's word `w` of `nbits` bits. The table numbers bit 0 as the
least significant bit of the one 16-bit word, so the word is `w` (bits above `nbits` zero), laid out high byte first. -/
def decodeTableWord (nbits w : Nat) : Option Instr :=
  match decode (bytesOfWord (BitVec.ofNat 16 (w % 2 ^ nbits))) with
  | .ok (i, _) => some i
  | .error _ => none

end Sys2Proof
end

