-- ==== Sys2Proof/Machine/State.lean ====
section
/-! DEFINITION. The complete state of the block (10_state.md R20), its value after reset (R39), and the reasons a step
can stop. -/

namespace Sys2Proof.Machine

/-- 10_state.md R31: the bytes of memory that differ from their reset contents, by strictly rising address. -/
abbrev Memory := List Host.Cell

/-- 10_state.md R32: `fb[y][x]`, 32 rows of 64 pixels, on or off. -/
abbrev Screen := Vector (Vector Bool 64) 32

/-- 60_exceptions.md R231: the five causes of a fault. -/
inductive Cause where
  /-- the fetched word matches no pattern (R232) -/
  | undefinedInstruction
  /-- CALL with 16 entries in use (R233) -/
  | stackOverflow
  /-- RET with none (R234) -/
  | stackUnderflow
  /-- an address above 0xFFF (R235) -/
  | memoryOutOfRange
  /-- SKP or SKNP with a key index above 15 (R237) -/
  | keyIndexOutOfRange
  deriving DecidableEq, Repr

/-- 10_state.md R36: what a fault records. -/
structure FaultRecord where
  cause : Cause
  /-- the address the faulting instruction was fetched from -/
  pc : Word
  /-- the instruction word; absent when the fetch itself faulted -/
  word : Option Word
  /-- the offending address or key index; absent for the other causes -/
  addr : Option Nat
  deriving DecidableEq, Repr

/-- 10_state.md R20, one field per row, and one field of the model's own (`draws`). -/
structure State where
  /-- V0 to VF (R21); VF = `v[15]` is also the flag (R22) -/
  v : Vector Byte 16
  /-- the index register I (R25) -/
  i : Word
  /-- the program counter (R26) -/
  pc : Word
  /-- the call stack (R28) -/
  stack : Vector Word 16
  /-- the stack pointer: the number of entries in use, of its 8-bit values only 0 to 16 are legal (R28, R34). DESIGN
  CHOICE, safe: held as one of the legal values (notes/assumptions/3.md) -/
  sp : Fin 17
  /-- the delay timer DT (R30) -/
  dt : Byte
  /-- the sound timer ST (R30) -/
  st : Byte
  /-- the 4096 bytes of memory (R31) -/
  mem : Memory
  /-- the framebuffer (R32) -/
  fb : Screen
  /-- the sixteen key states, true = pressed (R33) -/
  keys : Vector Bool 16
  /-- the fault latch (R36) -/
  fault : Option FaultRecord
  /-- a program has been loaded (20_memory.md R82) -/
  loaded : Bool
  /-- a tick has happened (20_memory.md R82) -/
  started : Bool
  /-- THE MODEL'S OWN: how many random bytes have been used, the index of the next one in the free stream
  `Config.rnd` (43_index_random.md R183; notes/assumptions/1.md) -/
  draws : Nat
  deriving DecidableEq, Repr

/-- Why a step stops. Only a tick of a halted machine does: no instruction's meaning ends in a fault, since taking a
fault is a next state that holds the latch (60_exceptions.md R236). -/
inductive Fault where
  /-- Raised by `step` (and `tick`) on a state whose latch is set: the tick "returns the same Fault(fault) and changes
  nothing" (R238). Safe: a claim about a next state says nothing of it, and `apply (.tick _)` gives the same record
  and the unchanged state (notes/assumptions/2.md). -/
  | halted (r : FaultRecord)
  deriving DecidableEq, Repr

/-- Why an operation is turned away. -/
inductive Refusal where
  /-- An instruction without a meaning; no instruction of this model is. Safe. -/
  | notModelled (mnemonic : String)
  /-- Raised by the operation `set_key` with an index above 15, to which the spec gives no meaning
  (60_exceptions.md R249: "refuses it"). Safe. -/
  | keyIndexOutOfContract (index : Nat)
  /-- Raised by the operation `load_program` after a successful load or after the first tick (20_memory.md R82). Safe. -/
  | loadNotAllowed
  deriving DecidableEq, Repr

/-- The machine right after reset: 10_state.md R39, 70_reset_and_hazards.md R270. The zeros of V, I, DT, ST and the
stack are the spec's decision D15 (DESIGN CHOICE, unsafe, notes/assumptions/6.md); `draws` is the model's own
(DESIGN CHOICE, notes/assumptions/1.md). -/
def State.reset : State where
  v := Vector.replicate 16 0
  i := 0
  pc := 0x200
  stack := Vector.replicate 16 0
  sp := 0
  dt := 0
  st := 0
  mem := []
  fb := Vector.replicate 32 (Vector.replicate 64 false)
  keys := Vector.replicate 16 false
  fault := none
  loaded := false
  started := false
  draws := 0

end Sys2Proof.Machine
end

