-- ==== Sys2Proof/Machine/Memory.lean ====
section
/-! DEFINITION. The 4096-byte memory (10_state.md R31, 20_memory.md R60 to R65): the contents at reset, the raw read
and write of one byte, the checked primitives `MemRead` and `MemWrite`, the range check of an instruction that makes
several accesses, and block reads and writes. Addresses are unbounded natural numbers (R64). -/

namespace Sys2Proof.Machine

/-- 00_scope.md R8 `FONT_BASE`: the address of glyph 0 (conflict C1: 0x050, not 0x000). -/
abbrev fontBase : Nat := 0x50

/-- R8 `GLYPH_BYTES`. -/
abbrev glyphBytes : Nat := 5

/-- 10_state.md R38 `FONT_TABLE`, five bytes per digit. PRESUMED, unsafe: the bytes are general knowledge of the family
that the spec adopts (decision D20; notes/assumptions/4.md); base, stride and count are the source's. -/
def fontTable : List Byte :=
  [0xF0, 0x90, 0x90, 0x90, 0xF0] ++ [0x20, 0x60, 0x20, 0x20, 0x70] ++
  [0xF0, 0x10, 0xF0, 0x80, 0xF0] ++ [0xF0, 0x10, 0xF0, 0x10, 0xF0] ++
  [0x90, 0x90, 0xF0, 0x10, 0x10] ++ [0xF0, 0x80, 0xF0, 0x10, 0xF0] ++
  [0xF0, 0x80, 0xF0, 0x90, 0xF0] ++ [0xF0, 0x10, 0x20, 0x40, 0x40] ++
  [0xF0, 0x90, 0xF0, 0x90, 0xF0] ++ [0xF0, 0x90, 0xF0, 0x10, 0xF0] ++
  [0xF0, 0x90, 0xF0, 0x90, 0x90] ++ [0xE0, 0x90, 0xE0, 0x90, 0xE0] ++
  [0xF0, 0x80, 0x80, 0x80, 0xF0] ++ [0xE0, 0x90, 0x90, 0x90, 0xE0] ++
  [0xF0, 0x80, 0xF0, 0x80, 0xF0] ++ [0xF0, 0x80, 0xF0, 0x80, 0x80]

/-- What an address that is not listed reads as: its contents at reset (20_memory.md R61, 10_state.md R39), the font
at 0x050..0x09F and zero everywhere else. -/
def Memory.unlisted (a : Nat) : Byte :=
  if fontBase ≤ a then fontTable.getD (a - fontBase) 0 else 0

/-- `mem[a]`, the raw read of R65. -/
def Memory.readByte : Memory → Nat → Byte
  | [], a => Memory.unlisted a
  | (k, b) :: rest, a => if a = k then b else Memory.readByte rest a

/-- `mem[a] <- v`, the raw write of R65: exactly one byte changes, and the list stays in its one canonical form. -/
def Memory.writeByte : Memory → Nat → Byte → Memory
  | [], a, v => if v = Memory.unlisted a then [] else [(a, v)]
  | (k, b) :: rest, a, v =>
    if a < k then
      if v = Memory.unlisted a then (k, b) :: rest else (a, v) :: (k, b) :: rest
    else if a = k then
      if v = Memory.unlisted a then rest else (a, v) :: rest
    else (k, b) :: Memory.writeByte rest a v

/-- The canonical form from address `lo` on: addresses strictly rising, all of them in memory, and no entry equal to
what an unlisted address reads as. -/
def Memory.wfFrom : Nat → Memory → Bool
  | _, [] => true
  | lo, (k, b) :: rest =>
    decide (lo ≤ k) && decide (k ≤ 0xFFF) && decide (b ≠ Memory.unlisted k) && Memory.wfFrom (k + 1) rest

/-- The canonical form of a memory: equal memories are equal lists. -/
def Memory.wf (m : Memory) : Bool := Memory.wfFrom 0 m

/-- `MemRead(addr, 1)` of R62; the error is the address that `MemoryOutOfRange` reports. -/
def Memory.read1 (m : Memory) (a : Nat) : Except Nat Byte :=
  if 0xFFF < a then .error a else .ok (m.readByte a)

/-- `MemRead(addr, 2)` of R62, big-endian. -/
def Memory.read2 (m : Memory) (a : Nat) : Except Nat Word :=
  if 0xFFF < a then .error a
  else if 0xFFF < a + 1 then .error (a + 1)
  else .ok (wordOfBytes (m.readByte a) (m.readByte (a + 1)))

/-- `MemWrite(addr, 1, v)` of R63. -/
def Memory.write1 (m : Memory) (a : Nat) (v : Byte) : Except Nat Memory :=
  if 0xFFF < a then .error a else .ok (m.writeByte a v)

/-- R64: the check an instruction makes before its `n` accesses at `base`, `base + 1`, ...: the lowest of these
addresses that is out of range, if the highest is. No access, no check. -/
def outOfRange (base n : Nat) : Option Nat :=
  if n ≠ 0 ∧ 0xFFF < base + n - 1 then some (max base 0x1000) else none

/-- The `n` bytes at `base`, `base + 1`, ... -/
def Memory.readBlock (m : Memory) (base n : Nat) : List Byte :=
  (List.range n).map fun k => m.readByte (base + k)

/-- Writes the bytes at `base`, `base + 1`, ... in ascending order. -/
def Memory.writeBlock : Memory → Nat → List Byte → Memory
  | m, _, [] => m
  | m, base, b :: bs => Memory.writeBlock (m.writeByte base b) (base + 1) bs

end Sys2Proof.Machine
end

