-- ==== Sys2Proof/Machine/Ops.lean ====
section
/-! DEFINITION. The named operations the meanings are written with: the update of each field, taking a fault
(60_exceptions.md R236) as one shared operation, push and pop (10_state.md R29), and the pixel writer (44_draw.md
R193). There is no return from a fault to stand beside taking one: no instruction clears the latch (R241). -/

namespace Sys2Proof.Machine

abbrev Result := Host.Outcome State Fault Refusal

/-! ### One update per field -/

def State.setV (s : State) (v : Vector Byte 16) : State := { s with v := v }
def State.setI (s : State) (i : Word) : State := { s with i := i }
def State.setPc (s : State) (pc : Word) : State := { s with pc := pc }
def State.setStack (s : State) (stack : Vector Word 16) : State := { s with stack := stack }
def State.setSp (s : State) (sp : Fin 17) : State := { s with sp := sp }
def State.setDt (s : State) (dt : Byte) : State := { s with dt := dt }
def State.setSt (s : State) (st : Byte) : State := { s with st := st }
def State.setMem (s : State) (mem : Memory) : State := { s with mem := mem }
def State.setFb (s : State) (fb : Screen) : State := { s with fb := fb }
def State.setKeys (s : State) (keys : Vector Bool 16) : State := { s with keys := keys }
def State.setFault (s : State) (fault : Option FaultRecord) : State := { s with fault := fault }
def State.setLoaded (s : State) (loaded : Bool) : State := { s with loaded := loaded }
def State.setStarted (s : State) (started : Bool) : State := { s with started := started }
def State.setDraws (s : State) (draws : Nat) : State := { s with draws := draws }

/-! ### Taking a fault -/

/-- 60_exceptions.md R231: the numeric code of a cause. -/
def Cause.code : Cause → Nat
  | .undefinedInstruction => 1
  | .stackOverflow => 2
  | .stackUnderflow => 3
  | .memoryOutOfRange => 4
  | .keyIndexOutOfRange => 5

/-- `raise` (R236) in the tick that fetched from `a`: PC is `a` again, the latch holds the record, `started` is set,
and nothing else differs from the state the tick began in. It is applied to a state in which the tick has written
nothing but PC and `started`: every meaning checks before its first write. -/
def State.raise (s : State) (cause : Cause) (a : Word) (word : Option Word) (addr : Option Nat) : State :=
  ((s.setPc a).setStarted true).setFault (some { cause := cause, pc := a, word := word, addr := addr })

/-- `raise` while instruction `i` executes: PC is the instruction's own address plus 2 (40_control_flow.md R121), and
the word recorded is the instruction's. -/
def State.raiseIn (s : State) (i : Instr) (cause : Cause) (addr : Option Nat) : Result :=
  .next (s.raise cause (s.pc - 2) (some (encodeWord i)) addr)

/-! ### The call stack (10_state.md R29) -/

/-- `push(v)`: none when all 16 entries are in use. -/
def State.push (s : State) (value : Word) : Option State :=
  if h : s.sp.val < 16 then
    some ((s.setStack (s.stack.set s.sp.val value h)).setSp ⟨s.sp.val + 1, by omega⟩)
  else none

/-- `pop()`: none when no entry is in use. The vacated entry keeps its value. -/
def State.pop (s : State) : Option (Word × State) :=
  if h : 0 < s.sp.val then
    some (s.stack[s.sp.val - 1]'(by omega), s.setSp ⟨s.sp.val - 1, by omega⟩)
  else none

/-! ### The screen -/

/-- `fb[y][x]` -/
def Screen.pixel (fb : Screen) (y : Fin 32) (x : Fin 64) : Bool := fb[y][x]

/-- `fb[y][x] <- fb[y][x] XOR 1` -/
def Screen.flip (fb : Screen) (y : Fin 32) (x : Fin 64) : Screen :=
  fb.set y (fb[y].set x (!fb[y][x]))

/-- 40_control_flow.md R124 `clear()`: every pixel off. -/
def Screen.clear : Screen := Vector.replicate 32 (Vector.replicate 64 false)

/-- 60_exceptions.md R248: the 2048 pixels in row-major order; pixel (x, y) is element `y*64 + x` (10_state.md R32). -/
def Screen.rowMajor (fb : Screen) : List Bool :=
  List.ofFn fun k : Fin 2048 => fb.pixel ⟨k.val / 64, by omega⟩ ⟨k.val % 64, by omega⟩

/-- 44_draw.md R191: the column of the pixel `c` places right of the start coordinate. -/
def drawColumn (x0 : Byte) (c : Nat) : Fin 64 := Fin.ofNat 64 (x0.toNat + c)

/-- R191: the row of the pixel `r` places below the start coordinate. -/
def drawRow (y0 : Byte) (r : Nat) : Fin 32 := Fin.ofNat 32 (y0.toNat + r)

/-- R192: the bit of a sprite byte that belongs to column `c`; bit 7 is the leftmost column (PRESUMED by the spec,
decision D12; unsafe, notes/assumptions/11.md). -/
def spriteBit (b : Byte) (c : Nat) : Bool := b.getLsbD (7 - c)

/-- R190, R193, one column of one row: test, then flip. The pair is the screen and the collision flag. -/
def drawPixel (b : Byte) (x0 : Byte) (y : Fin 32) (p : Screen × Bool) (c : Nat) : Screen × Bool :=
  if spriteBit b c then
    let x := drawColumn x0 c
    (p.1.flip y x, p.2 || p.1.pixel y x)
  else p

/-- R190: the eight columns of one row, left to right. -/
def drawRowBits (b : Byte) (x0 : Byte) (y : Fin 32) (p : Screen × Bool) : Screen × Bool :=
  (List.range 8).foldl (drawPixel b x0 y) p

/-- R190: the rows of a sprite from row number `r` on, top to bottom. -/
def drawRows (x0 y0 : Byte) : Nat → List Byte → Screen × Bool → Screen × Bool
  | _, [], p => p
  | r, b :: bs, p => drawRows x0 y0 (r + 1) bs (drawRowBits b x0 (drawRow y0 r) p)

/-- R190: the whole sprite, the flag "reset to 0 before drawing". -/
def drawSprite (fb : Screen) (x0 y0 : Byte) (rows : List Byte) : Screen × Bool :=
  drawRows x0 y0 0 rows (fb, false)

/-! ### The keypad -/

/-- 45_keypad.md R203, R204: the least index of a pressed key. -/
def firstPressed (keys : Vector Bool 16) : Option (Fin 16) :=
  (List.finRange 16).find? fun k => keys[k]

end Sys2Proof.Machine
end

