-- ==== Sys2Proof/Machine/Operands.lean ====
section
/-! DEFINITION. The operand forms (30_encoding.md R93, 10_state.md R24, 20_memory.md R69): a V register read and
written, an address immediate, the index register as a memory base, and the move of PC a skip or a key wait makes. -/

namespace Sys2Proof.Machine

/-- `V[x]` -/
def State.readV (s : State) (x : Reg) : Byte := s.v[x]

/-- `V[x] <- value`. There is no hard-wired register (10_state.md R21). -/
def State.writeV (s : State) (x : Reg) (value : Byte) : State := s.setV (s.v.set x value)

/-- `zext_16(nnn)` (R93) -/
def zextImm (nnn : Imm12) : Word := nnn.setWidth 16

/-- `zext_16(V[x])` -/
def zextByte (b : Byte) : Word := b.setWidth 16

/-- The base address I of `Dxyn`, `Fx33`, `Fx55`, `Fx65`, as an unbounded integer (20_memory.md R64). -/
def State.base (s : State) : Nat := s.i.toNat

/-- The number of registers `V[0] .. V[x]` (46_timers_font_bcd_block.md R217: "x + 1 of them"). -/
def blockLength (x : Reg) : Nat := x.val + 1

/-- The registers `V[0] .. V[x]` in ascending order. -/
def State.regsUpTo (s : State) (x : Reg) : List Byte := s.v.toList.take (blockLength x)

/-- 41_skips.md R140: when the condition holds, 2 more is added to PC (modulo 65536). -/
def State.skipIf (s : State) (condition : Bool) : State := if condition then s.setPc (s.pc + 2) else s

/-- 45_keypad.md R203: back to the instruction's own address. -/
def State.repeatInstr (s : State) : State := s.setPc (s.pc - 2)

/-- 46_timers_font_bcd_block.md R215: `0x50 + zext_16(V[x]) * 5`; the full byte, not masked (decision D11). -/
def fontAddress (digit : Byte) : Word := BitVec.ofNat 16 (fontBase + digit.toNat * glyphBytes)

/-- 46_timers_font_bcd_block.md R216: hundreds, tens, ones. -/
def bcdDigits (b : Byte) : List Byte :=
  [BitVec.ofNat 8 (b.toNat / 100), BitVec.ofNat 8 (b.toNat / 10 % 10), BitVec.ofNat 8 (b.toNat % 10)]

end Sys2Proof.Machine
end

