-- ==== Sys2Proof/Machine/Flags.lean ====
section
/-! DEFINITION. The flag computations (10_state.md R23, 42_alu.md R150, R151) and the order of the result and flag
writes (R152). VF is the machine's only flag (10_state.md R22). -/

namespace Sys2Proof.Machine

/-- A flag is written as exactly 0x00 or 0x01 (R22). -/
def flagByte (b : Bool) : Byte := if b then 1 else 0

/-- `8xy4`: 1 iff the sum of the two bytes exceeds 255. -/
def carryOut (a b : Byte) : Bool := decide (255 < a.toNat + b.toNat)

/-- `8xy5`, `8xy7`: 1 iff minuend >= subtrahend ("flag = 1 when NOT borrowed", R151). -/
def notBorrow (minuend subtrahend : Byte) : Bool := decide (subtrahend.toNat ≤ minuend.toNat)

/-- `8xy6`: the bit shifted out, bit 0. -/
def shiftedOutRight (a : Byte) : Bool := a.getLsbD 0

/-- `8xyE`: the bit shifted out, bit 7. -/
def shiftedOutLeft (a : Byte) : Bool := a.getLsbD 7

/-- `V[F] <- 1 if b else 0` -/
def State.writeFlag (s : State) (b : Bool) : State := s.writeV vF (flagByte b)

/-- R152: V[x] is written with the result, then VF with the flag; with x = F the flag is what remains. -/
def State.writeResultThenFlag (s : State) (x : Reg) (result : Byte) (flag : Bool) : State :=
  (s.writeV x result).writeFlag flag

end Sys2Proof.Machine
end

