-- ==== Sys2Proof/Machine/Alu.lean ====
section
/-! DEFINITION. Register load and arithmetic-logic instructions (42_alu.md R150 to R164). Byte addition and
subtraction wrap modulo 256. -/

namespace Sys2Proof.Machine

/-- `6xkk` LD Vx kk (R154). -/
def execLdImm (x : Reg) (kk : Byte) (s : State) : Result := .next (s.writeV x kk)

/-- `7xkk` ADD Vx kk (R155): no flag. -/
def execAddImm (x : Reg) (kk : Byte) (s : State) : Result := .next (s.writeV x (s.readV x + kk))

/-- `8xy0` LD Vx Vy (R156). -/
def execLdReg (x y : Reg) (s : State) : Result := .next (s.writeV x (s.readV y))

/-- `8xy1` OR Vx Vy (R157): VF is not cleared (R153). -/
def execOr (x y : Reg) (s : State) : Result := .next (s.writeV x (s.readV x ||| s.readV y))

/-- `8xy2` AND Vx Vy (R158). -/
def execAnd (x y : Reg) (s : State) : Result := .next (s.writeV x (s.readV x &&& s.readV y))

/-- `8xy3` XOR Vx Vy (R159). -/
def execXor (x y : Reg) (s : State) : Result := .next (s.writeV x (s.readV x ^^^ s.readV y))

/-- `8xy4` ADD Vx Vy (R160). -/
def execAdd (x y : Reg) (s : State) : Result :=
  let a := s.readV x
  let b := s.readV y
  .next (s.writeResultThenFlag x (a + b) (carryOut a b))

/-- `8xy5` SUB Vx Vy (R161). -/
def execSub (x y : Reg) (s : State) : Result :=
  let a := s.readV x
  let b := s.readV y
  .next (s.writeResultThenFlag x (a - b) (notBorrow a b))

/-- `8xy6` SHR Vx (R162): V[x] in place, y ignored (decision D4). -/
def execShr (x _y : Reg) (s : State) : Result :=
  let a := s.readV x
  .next (s.writeResultThenFlag x (a >>> 1) (shiftedOutRight a))

/-- `8xy7` SUBN Vx Vy (R163). -/
def execSubn (x y : Reg) (s : State) : Result :=
  let a := s.readV x
  let b := s.readV y
  .next (s.writeResultThenFlag x (b - a) (notBorrow b a))

/-- `8xyE` SHL Vx (R164): V[x] in place, y ignored (decision D4). -/
def execShl (x _y : Reg) (s : State) : Result :=
  let a := s.readV x
  .next (s.writeResultThenFlag x (a <<< 1) (shiftedOutLeft a))

end Sys2Proof.Machine
end

