-- ==== Sys2Proof/Machine/ControlFlow.lean ====
section
/-! DEFINITION. The control-flow instructions (40_control_flow.md R123 to R128). A meaning runs on the state the
fetch leaves, in which PC is the instruction's own address plus 2 (R121). -/

namespace Sys2Proof.Machine

/-- `0000` NOP (R123). -/
def execNop (s : State) : Result := .next s

/-- `00E0` CLS (R124). -/
def execCls (s : State) : Result := .next (s.setFb Screen.clear)

/-- `00EE` RET (R125). -/
def execRet (s : State) : Result :=
  match s.pop with
  | some (target, t) => .next (t.setPc target)
  | none => s.raiseIn .ret .stackUnderflow none

/-- `1nnn` JP nnn (R126). -/
def execJp (nnn : Imm12) (s : State) : Result := .next (s.setPc (zextImm nnn))

/-- `2nnn` CALL nnn (R127). -/
def execCall (nnn : Imm12) (s : State) : Result :=
  match s.push s.pc with
  | some t => .next (t.setPc (zextImm nnn))
  | none => s.raiseIn (.call nnn) .stackOverflow none

/-- `Bnnn` JP V0 nnn (R128): the sum is not masked to 12 bits (decision D8). -/
def execJpV0 (nnn : Imm12) (s : State) : Result :=
  .next (s.setPc (zextImm nnn + zextByte (s.readV 0)))

end Sys2Proof.Machine
end

