-- ==== Sys2Proof/Machine/Draw.lean ====
section
/-! DEFINITION. The sprite draw (44_draw.md R190 to R195). The coordinates are read before VF is written (R195), and
the range check comes before any write (20_memory.md R64). -/

namespace Sys2Proof.Machine

/-- `Dxyn` DRW Vx Vy n (R190). -/
def execDrw (x y : Reg) (n : Fin 16) (s : State) : Result :=
  match outOfRange s.base n.val with
  | some bad => s.raiseIn (.drw x y n) .memoryOutOfRange (some bad)
  | none =>
    let drawn := drawSprite s.fb (s.readV x) (s.readV y) (s.mem.readBlock s.base n.val)
    .next ((s.setFb drawn.1).writeFlag drawn.2)

end Sys2Proof.Machine
end

