-- ==== Sys2Proof/Machine/Index.lean ====
section
/-! DEFINITION. Index register and random byte (43_index_random.md R180 to R183). -/

namespace Sys2Proof.Machine

/-- `Annn` LD I nnn (R180). -/
def execLdI (nnn : Imm12) (s : State) : Result := .next (s.setI (zextImm nnn))

/-- `Fx1E` ADD I Vx (R181): wraps at 16 bits, no flag. -/
def execAddI (x : Reg) (s : State) : Result := .next (s.setI (s.i + zextByte (s.readV x)))

/-- `Cxkk` RND Vx kk (R182) on the byte `rnd` handed to the tick. -/
def execRndWith (rnd : Byte) (x : Reg) (kk : Byte) (s : State) : Result :=
  .next ((s.writeV x (rnd &&& kk)).setDraws (s.draws + 1))

/-- `Cxkk` RND Vx kk (R182) on the next free byte (R183; notes/assumptions/1.md). -/
def execRnd (x : Reg) (kk : Byte) (s : State) : Result := execRndWith (Config.rnd s.draws) x kk s

end Sys2Proof.Machine
end

