-- ==== Sys2Proof/Machine/Keypad.lean ====
section
/-! DEFINITION. The keypad instructions (45_keypad.md R200 to R205). -/

namespace Sys2Proof.Machine

/-- `Ex9E` SKP Vx (R200, R201): the full byte is the key index. -/
def execSkp (x : Reg) (s : State) : Result :=
  let k := (s.readV x).toNat
  if h : k < 16 then .next (s.skipIf s.keys[k])
  else s.raiseIn (.skp x) .keyIndexOutOfRange (some k)

/-- `ExA1` SKNP Vx (R200, R202). -/
def execSknp (x : Reg) (s : State) : Result :=
  let k := (s.readV x).toNat
  if h : k < 16 then .next (s.skipIf (!s.keys[k]))
  else s.raiseIn (.sknp x) .keyIndexOutOfRange (some k)

/-- `Fx0A` LD Vx K (R203, R204): with no key pressed the same instruction is fetched again. -/
def execLdVxK (x : Reg) (s : State) : Result :=
  match firstPressed s.keys with
  | some k => .next (s.writeV x (BitVec.ofNat 8 k.val))
  | none => .next s.repeatInstr

end Sys2Proof.Machine
end

