-- ==== Sys2Proof/Machine/Skips.lean ====
section
/-! DEFINITION. The four conditional skips (41_skips.md R140 to R144). -/

namespace Sys2Proof.Machine

/-- `3xkk` SE Vx kk (R141). -/
def execSeImm (x : Reg) (kk : Byte) (s : State) : Result := .next (s.skipIf (s.readV x == kk))

/-- `4xkk` SNE Vx kk (R142). -/
def execSneImm (x : Reg) (kk : Byte) (s : State) : Result := .next (s.skipIf (s.readV x != kk))

/-- `5xy0` SE Vx Vy (R143). -/
def execSeReg (x y : Reg) (s : State) : Result := .next (s.skipIf (s.readV x == s.readV y))

/-- `9xy0` SNE Vx Vy (R144). -/
def execSneReg (x y : Reg) (s : State) : Result := .next (s.skipIf (s.readV x != s.readV y))

end Sys2Proof.Machine
end

