-- ==== Sys2Proof/Machine/TimersBlock.lean ====
section
/-! DEFINITION. Timer access, font address, BCD and block transfers (46_timers_font_bcd_block.md R210 to R218). The
memory instructions check their highest address before any access (R210) and leave I unchanged (R211). -/

namespace Sys2Proof.Machine

/-- `Fx07` LD Vx DT (R212). -/
def execLdVxDt (x : Reg) (s : State) : Result := .next (s.writeV x s.dt)

/-- `Fx15` LD DT Vx (R213). -/
def execLdDtVx (x : Reg) (s : State) : Result := .next (s.setDt (s.readV x))

/-- `Fx18` LD ST Vx (R214). -/
def execLdStVx (x : Reg) (s : State) : Result := .next (s.setSt (s.readV x))

/-- `Fx29` LD F Vx (R215). -/
def execLdF (x : Reg) (s : State) : Result := .next (s.setI (fontAddress (s.readV x)))

/-- `Fx33` LD B Vx (R216). -/
def execLdB (x : Reg) (s : State) : Result :=
  match outOfRange s.base 3 with
  | some bad => s.raiseIn (.ldB x) .memoryOutOfRange (some bad)
  | none => .next (s.setMem (s.mem.writeBlock s.base (bcdDigits (s.readV x))))

/-- `Fx55` LD [I] Vx (R217). -/
def execStoreRegs (x : Reg) (s : State) : Result :=
  match outOfRange s.base (blockLength x) with
  | some bad => s.raiseIn (.storeRegs x) .memoryOutOfRange (some bad)
  | none => .next (s.setMem (s.mem.writeBlock s.base (s.regsUpTo x)))

/-- `Fx65` LD Vx [I] (R218). -/
def execLoadRegs (x : Reg) (s : State) : Result :=
  match outOfRange s.base (blockLength x) with
  | some bad => s.raiseIn (.loadRegs x) .memoryOutOfRange (some bad)
  | none =>
    .next (s.setV (Vector.ofFn fun r =>
      if r.val ≤ x.val then s.mem.readByte (s.base + r.val) else s.readV r))

end Sys2Proof.Machine
end

