-- ==== Sys2Proof/Machine/Tick.lean ====
section
/-! DEFINITION. The tick (40_control_flow.md R120, R121): fetch, decode, execute, with the faults of the first two
phases, in the order of 60_exceptions.md R239. -/

namespace Sys2Proof.Machine

/-- R121: the word at PC, high byte first; the error is the address that does not exist. -/
def State.fetch (s : State) : Except Nat Word := s.mem.read2 s.pc.toNat

/-- The state an instruction executes in: PC advanced by 2 modulo 65536, and a tick has happened (R120). -/
def State.afterFetch (s : State) : State := (s.setStarted true).setPc (s.pc + 2)

/-- R120, with `run` in the place of "execute instr". On a halted block it answers the latched record (R238). -/
def tickWith (run : Instr → State → Result) (s : State) : Result :=
  match s.fault with
  | some r => .fault (.halted r)
  | none =>
    match s.fetch with
    | .error bad => .next (s.raise .memoryOutOfRange s.pc none (some bad))
    | .ok w =>
      match decodeWord w with
      | none => .next (s.raise .undefinedInstruction s.pc (some w) none)
      | some i => run i s.afterFetch

/-- Executes an instruction in a tick that is handed the byte `rnd`: only `Cxkk` uses it (43_index_random.md R183). -/
def execWith (rnd : Byte) (i : Instr) (s : State) : Result :=
  match i with
  | .rnd x kk => execRndWith rnd x kk s
  | i => exec i s

/-- `tick(rnd)` of R120, for any byte the environment supplies. -/
def tick (rnd : Byte) (s : State) : Result := tickWith (execWith rnd) s

end Sys2Proof.Machine
end

