-- ==== Sys2Proof/Machine/Bus.lean ====
section
/-! DEFINITION. The operations of every agent (00_scope.md R6, 60_exceptions.md R252), each as a function from a state
to a state and a response, and a history as their composition in order (20_memory.md R72). -/

namespace Sys2Proof.Machine

/-- What an operation returns (R252). -/
inductive Response where
  /-- `Ok`, or nothing to return -/
  | ok
  /-- `tick` returns `Fault(record)` (60_exceptions.md R236, R238) -/
  | fault (r : FaultRecord)
  /-- `load_program` returns `LoadError(ProgramTooLarge)` (20_memory.md R80, R81) -/
  | programTooLarge
  /-- `read_display` returns the 2048 pixels (60_exceptions.md R248) -/
  | pixels (row_major : List Bool)
  /-- the operation has no meaning here and changes nothing -/
  | refused (r : Refusal)
  deriving DecidableEq, Repr

/-- 40_control_flow.md R120: what a tick that ended in `s` returns, `Ok` or the record in the latch. -/
def State.tickResponse (s : State) : Response :=
  match s.fault with
  | none => .ok
  | some r => .fault r

/-- 60_exceptions.md R245: one timer, never below 0. -/
def timerDown (t : Byte) : Byte := if t = 0 then 0 else t - 1

/-- R245 `timer_tick`. -/
def State.timerTick (s : State) : State := (s.setDt (timerDown s.dt)).setSt (timerDown s.st)

/-- R249 `set_key`, for an index below 16. -/
def State.setKey (s : State) (index : Fin 16) (pressed : Bool) : State := s.setKeys (s.keys.set index pressed)

/-- 20_memory.md R80 `load_program`, for an image that fits. -/
def State.loadImage (s : State) (image : List Byte) : State :=
  (s.setMem (s.mem.writeBlock Config.programBase image)).setLoaded true

/-- One operation of one agent. -/
def apply (op : HostOp) (s : State) : State × Response :=
  match op with
  | .reset => (State.reset, .ok)
  | .loadProgram image =>
    if s.loaded || s.started then (s, .refused .loadNotAllowed)
    else if op.wellFormed then (s.loadImage image, .ok)
    else (s, .programTooLarge)
  | .tick rnd =>
    match tick rnd s with
    | .next t => (t, t.tickResponse)
    | .fault (.halted r) => (s, .fault r)
    | .refused r => (s, .refused r)
  | .timerTick => (s.timerTick, .ok)
  | .setKey index pressed =>
    if h : index < 16 then (s.setKey ⟨index, h⟩ pressed, .ok)
    else (s, .refused (.keyIndexOutOfContract index))
  | .readDisplay => (s, .pixels s.fb.rowMajor)

/-- A history of the block: the composition of the operations in order (R72). -/
def applyAll : List HostOp → State → State
  | [], s => s
  | op :: ops, s => applyAll ops (apply op s).1

end Sys2Proof.Machine
end

