-- ==== Sys2Proof/Machine/Step.lean ====
section
/-! DEFINITION. One step of the CPU, and how the host places one instruction for it. -/

namespace Sys2Proof.Machine

/-- One `tick` (40_control_flow.md R120), the random byte taken from the free stream (notes/assumptions/1.md). -/
def step (s : State) : Host.Outcome State Fault Refusal := tickWith exec s

/-- The state with the table's word `w` of `nbits` bits stored at PC, high byte first (20_memory.md R66), where the
next step fetches it. An address outside memory holds nothing, so a byte that would lie there is not stored
(notes/assumptions/14.md). -/
def State.withFetchWord (s : State) (nbits w : Nat) : State :=
  if s.pc.toNat + 1 < Config.memSize then
    s.setMem (s.mem.writeBlock s.pc.toNat (bytesOfWord (BitVec.ofNat 16 (w % 2 ^ nbits))))
  else s

end Sys2Proof.Machine
end

