-- ==== Sys2Proof/Safety.lean ====
section
/-! DEFINITION. What counts as a safe run, in the terms the statements use: a state that is not halted
(60_exceptions.md R238: "a halted state is never a successful end of a program"), the invariant of the reachable
states (10_state.md R27, R35, R36), reachability by any history of operations, and frames. -/

namespace Sys2Proof.Machine

/-- No fault has been latched (R238). -/
def State.running (s : State) : Prop := s.fault = none

/-- 60_exceptions.md R231: which parts a record of a cause has, and what they say. -/
def FaultRecord.wellShaped (r : FaultRecord) : Prop :=
  match r.cause with
  | .undefinedInstruction => r.addr = none ∧ ∃ w, r.word = some w ∧ decodeWord w = none
  | .stackOverflow => r.addr = none ∧ ∃ nnn, r.word = some (encodeWord (.call nnn))
  | .stackUnderflow => r.addr = none ∧ r.word = some 0x00EE#16
  | .memoryOutOfRange => ∃ a, r.addr = some a ∧ 0xFFF < a ∧ a ≤ 0xFFFF
  | .keyIndexOutOfRange => ∃ k, r.addr = some k ∧ 15 < k ∧ k ≤ 255 ∧
      ∃ x, r.word = some (encodeWord (.skp x)) ∨ r.word = some (encodeWord (.sknp x))

/-- The latch, when set, holds a well-shaped record of the instruction PC still points at, and a tick has happened
(R236). -/
def State.latchOk (s : State) : Prop :=
  ∀ r, s.fault = some r → r.wellShaped ∧ r.pc = s.pc ∧ s.started = true

/-- What every reachable state satisfies: the memory is in its canonical form; PC is at most 0x10FE (10_state.md R27);
a return address in use is at most 0x1000 (40_control_flow.md R125); the latch is consistent (10_state.md R36). -/
structure State.Inv (s : State) : Prop where
  memory : s.mem.wf = true
  pcBound : s.pc.toNat ≤ 0x10FE
  returnBound : ∀ k : Fin 16, k.val < s.sp.val → s.stack[k].toNat ≤ 0x1000
  latch : s.latchOk

/-- Some history of operations leads from reset to the state (20_memory.md R72). -/
def State.Reachable (s : State) : Prop := ∃ ops, s = applyAll ops State.reset

/-- A run of `k` steps in which no step stops and no fault is latched. -/
def safeRun : Nat → State → Prop
  | 0, s => s.running
  | k + 1, s => s.running ∧ ∃ t, step s = .next t ∧ safeRun k t

/-- The parts of the state, for frames. -/
inductive Field where
  | v | i | pc | stack | sp | dt | st | mem | fb | keys | fault | loaded | started | draws
  deriving DecidableEq, Repr

/-- One part is the same in two states; memory, when every byte of it reads the same. -/
def Field.Same : Field → State → State → Prop
  | .v, s, t => t.v = s.v
  | .i, s, t => t.i = s.i
  | .pc, s, t => t.pc = s.pc
  | .stack, s, t => t.stack = s.stack
  | .sp, s, t => t.sp = s.sp
  | .dt, s, t => t.dt = s.dt
  | .st, s, t => t.st = s.st
  | .mem, s, t => ∀ a, t.mem.readByte a = s.mem.readByte a
  | .fb, s, t => t.fb = s.fb
  | .keys, s, t => t.keys = s.keys
  | .fault, s, t => t.fault = s.fault
  | .loaded, s, t => t.loaded = s.loaded
  | .started, s, t => t.started = s.started
  | .draws, s, t => t.draws = s.draws

/-- Every part but the listed ones is the same. -/
def SameBut (changed : List Field) (s t : State) : Prop := ∀ f, f ∉ changed → f.Same s t

/-- Every V register but the listed ones is the same. -/
def SameRegsBut (changed : List Reg) (s t : State) : Prop := ∀ r, r ∉ changed → t.readV r = s.readV r

/-- 60_exceptions.md R236, for a fault of the executing instruction `i`: PC is the instruction's own address again, a
tick has happened, the latch holds the record, and nothing else differs from `s`, the state `i` runs in. -/
def State.latched (s : State) (i : Instr) (cause : Cause) (addr : Option Nat) : State :=
  { s with
    pc := s.pc - 2
    started := true
    fault := some { cause := cause, pc := s.pc - 2, word := some (encodeWord i), addr := addr } }

end Sys2Proof.Machine

namespace Sys2Proof

/-- 20_memory.md R69: how many bytes of memory an instruction accesses, at I, I + 1, ... -/
def Instr.accesses : Instr → Nat
  | .drw _ _ n => n.val
  | .ldB _ => 3
  | .storeRegs x => x.val + 1
  | .loadRegs x => x.val + 1
  | .nop | .cls | .ret | .jp _ | .call _ | .seImm _ _ | .sneImm _ _ | .seReg _ _ | .ldImm _ _ | .addImm _ _ => 0
  | .ldReg _ _ | .orReg _ _ | .andReg _ _ | .xorReg _ _ | .addReg _ _ | .subReg _ _ | .shr _ _ | .subnReg _ _ => 0
  | .shl _ _ | .sneReg _ _ | .ldI _ | .jpV0 _ | .rnd _ _ | .skp _ | .sknp _ | .ldVxDt _ | .ldVxK _ => 0
  | .ldDtVx _ | .ldStVx _ | .addI _ | .ldF _ => 0

/-- 10_state.md R24, the column "writes": the V registers an instruction may write. -/
def Instr.writesReg : Instr → Reg → Bool
  | .ldImm x _, r | .rnd x _, r | .addImm x _, r => r == x
  | .ldReg x _, r | .orReg x _, r | .andReg x _, r | .xorReg x _, r => r == x
  | .addReg x _, r | .subReg x _, r | .subnReg x _, r | .shr x _, r | .shl x _, r => r == x || r == vF
  | .drw _ _ _, r => r == vF
  | .ldVxDt x, r | .ldVxK x, r => r == x
  | .loadRegs x, r => decide (r.val ≤ x.val)
  | .nop, _ | .cls, _ | .ret, _ | .jp _, _ | .call _, _ | .seImm _ _, _ | .sneImm _ _, _ | .seReg _ _, _ => false
  | .sneReg _ _, _ | .ldI _, _ | .jpV0 _, _ | .skp _, _ | .sknp _, _ | .ldDtVx _, _ | .ldStVx _, _ => false
  | .addI _, _ | .ldF _, _ | .ldB _, _ | .storeRegs _, _ => false

end Sys2Proof

namespace Sys2Proof.Machine

/-- 44_draw.md R190 to R192: the pixel in row `py`, column `px` lies under a set bit of the `n`-row sprite at I when it
is drawn at (`x0`, `y0`). -/
def State.spriteCovers (s : State) (x0 y0 n : Nat) (py : Fin 32) (px : Fin 64) : Prop :=
  ∃ r c, r < n ∧ c < 8 ∧ (s.mem.readByte (s.base + r)).getLsbD (7 - c) = true ∧
    py.val = (y0 + r) % 32 ∧ px.val = (x0 + c) % 64

/-- Nested calls to the given targets, one after the other (40_control_flow.md R127). -/
def callAll : List Imm12 → State → Host.Outcome State Fault Refusal
  | [], s => .next s
  | target :: rest, s =>
    match exec (.call target) s with
    | .next t => callAll rest t
    | .fault f => .fault f
    | .refused r => .refused r

end Sys2Proof.Machine
end

