-- ==== Sys2Proof/Certificates/Slice0/Obligations.lean ====
section
/-! DEFINITION. The statements for the provers. An instruction's meaning `exec i s` runs on the state `s` the fetch
leaves, in which PC is the instruction's own address plus 2 (40_control_flow.md R121); `StepRunsDecodedInstruction`
says how a step reaches it. `SameBut` and `SameRegsBut` (Safety.lean) are the frames: every part of the state, every
byte of memory and every V register that is not named is unchanged. -/

open Sys2Proof Sys2Proof.Machine

/-! ### Encoding -/

/-- 30_encoding.md R91: the six fields are these bits of the word, and they overlap as R91 says. -/
def Obligations.FieldsAreTheBitsOfTheWord : Prop :=
  ∀ w : Word,
    (∀ k : Nat, k < 4 → (fieldClass w).getLsbD k = w.getLsbD (12 + k)) ∧
    (fieldX w).val = w.toNat / 256 % 16 ∧ (fieldY w).val = w.toNat / 16 % 16 ∧ (fieldN w).val = w.toNat % 16 ∧
    (fieldKk w).toNat = (fieldY w).val * 16 + (fieldN w).val ∧
    (fieldNnn w).toNat = (fieldX w).val * 256 + (fieldKk w).toNat ∧
    w.toNat = (fieldClass w).toNat * 4096 + (fieldNnn w).toNat

/-- One word per family, written out from the patterns of 30_encoding.md R96, decodes to its instruction. Rests on the
spec's own decisions D1 to D3 (notes/assumptions/5.md). -/
def Obligations.FamilyWordsDecode : Prop :=
  decode [0x00, 0x00] = .ok (.nop, []) ∧ decode [0x22, 0x10] = .ok (.call 0x210, []) ∧
  decode [0x5A, 0xB0] = .ok (.seReg 0xA 0xB, []) ∧ decode [0x60, 0x05] = .ok (.ldImm 0 0x05, []) ∧
  decode [0x83, 0xA6] = .ok (.shr 3 0xA, []) ∧ decode [0xA0, 0x50] = .ok (.ldI 0x050, []) ∧
  decode [0xD5, 0xA7] = .ok (.drw 5 0xA 7, []) ∧ decode [0xE5, 0xA1] = .ok (.sknp 5, []) ∧
  decode [0xF3, 0x33] = .ok (.ldB 3, []) ∧ decode [0x81, 0x28] = .error (.undefinedWord 0x8128)

/-- Decode of encode is the instruction, for every instruction, every operand value, and any bytes that follow. -/
def Obligations.DecodeInvertsEncode : Prop :=
  ∀ (i : Instr) (rest : List Byte), i.wellFormed = true → decode (encode i ++ rest) = .ok (i, rest)

/-- Encode of decode is the word: no bit of a defined word is dropped, the don't-care y of the shifts included. -/
def Obligations.EncodeInvertsDecode : Prop :=
  ∀ (w : Word) (i : Instr), decodeWord w = some i → encodeWord i = w

/-- 30_encoding.md R96 ("a word w is the instruction iff w AND mask = match") for each of the 35 rows, and R94: the
patterns are mutually exclusive. The rows' numbers are the spec's decisions D1 to D3 (notes/assumptions/5.md). -/
def Obligations.DecodeAgreesWithOpcodeMap : Prop :=
  (∀ (w : Word) (row : OpcodeRow), row ∈ opcodeMap →
    (w &&& row.mask = row.value ↔ ∃ i, decodeWord w = some i ∧ i.mnemonic = row.mnemonic)) ∧
  opcodeMap.length = 35 ∧
  opcodeMap.Pairwise fun p q => p.mnemonic ≠ q.mnemonic ∧ ∀ w : Word, ¬ (w &&& p.mask = p.value ∧ w &&& q.mask = q.value)

/-- 30_encoding.md R97: how many words of each opcode class are defined, all 4096 in ten classes and the numbers given
here in the other six. Derived by the spec from R94. -/
def Obligations.DefinedWordCounts : Prop :=
  (∀ c ∈ [1, 2, 3, 4, 6, 7, 10, 11, 12, 13], ∀ k < 4096, (decodeWord (BitVec.ofNat 16 (c * 4096 + k))).isSome = true) ∧
  ([0, 5, 8, 9, 14, 15].map fun c =>
    (List.range 4096).countP fun k => (decodeWord (BitVec.ofNat 16 (c * 4096 + k))).isSome) =
      [3, 256, 2304, 256, 32, 144]

/-! ### The tick -/

/-- 40_control_flow.md R120, R121: on a running block whose PC is at most 0xFFE, odd or even, when the two bytes at PC
decode to `i`, a step is `i`'s meaning on the state with PC advanced by 2 and `started` set; so is a tick that is
handed any byte. -/
def Obligations.StepRunsDecodedInstruction : Prop :=
  ∀ (s : State) (i : Instr) (rnd : Byte), s.fault = none → s.pc.toNat ≤ 0xFFE →
    decode [s.mem.readByte s.pc.toNat, s.mem.readByte (s.pc.toNat + 1)] = .ok (i, []) →
    step s = exec i { s with pc := s.pc + 2, started := true } ∧
    tick rnd s = execWith rnd i { s with pc := s.pc + 2, started := true }

/-- The step is the tick that is handed the next byte of the free stream, and the operation `tick` of the bus returns
the state of the tick and `Ok` or the latched record (40_control_flow.md R120, 43_index_random.md R183). That the
bytes form a stream is the model's choice (notes/assumptions/1.md). -/
def Obligations.StepIsTheTickOfTheFreeByte : Prop :=
  (∀ s : State, step s = tick (Config.rnd s.draws) s) ∧
  (∀ (s t : State) (rnd : Byte), tick rnd s = .next t →
    (apply (.tick rnd) s).1 = t ∧
    (t.fault = none → (apply (.tick rnd) s).2 = .ok) ∧
    (∀ r, t.fault = some r → (apply (.tick rnd) s).2 = .fault r))

/-- A fetch from above 0xFFE latches MemoryOutOfRange with the address of the first byte that does not exist and no
word. Rests on the spec's decisions D9 and D16 (notes/assumptions/9.md). -/
def Obligations.FetchOutsideMemoryFaults : Prop :=
  ∀ s : State, s.fault = none → 0xFFE < s.pc.toNat →
    step s = .next { s with
      started := true
      fault := some
        { cause := .memoryOutOfRange, pc := s.pc, word := none,
          addr := some (if s.pc.toNat = 0xFFF then 0x1000 else s.pc.toNat) } }

/-- A fetched word that matches no pattern latches UndefinedInstruction with the word. The form of the record is the
spec's decision D16 (notes/assumptions/9.md). -/
def Obligations.UndefinedWordFaults : Prop :=
  ∀ (s : State) (w : Word), s.fault = none → s.pc.toNat ≤ 0xFFE →
    w = wordOfBytes (s.mem.readByte s.pc.toNat) (s.mem.readByte (s.pc.toNat + 1)) → decodeWord w = none →
    step s = .next { s with
      started := true
      fault := some { cause := .undefinedInstruction, pc := s.pc, word := some w, addr := none } }

/-- A tick of a halted block returns the latched record and changes nothing. The spec's decision D17
(notes/assumptions/9.md); that `step` answers it as a fault is the model's choice (notes/assumptions/2.md). -/
def Obligations.HaltedTickChangesNothing : Prop :=
  ∀ (s : State) (r : FaultRecord) (rnd : Byte), s.fault = some r →
    step s = .fault (.halted r) ∧ apply (.tick rnd) s = (s, .fault r)

/-- No history without `reset` clears or overwrites the latch, and on a halted block none changes the CPU's state,
memory or screen. The spec's decision D17 (notes/assumptions/9.md). -/
def Obligations.OnlyResetLeavesTheHaltedState : Prop :=
  ∀ (ops : List HostOp) (s : State) (r : FaultRecord), s.fault = some r → s.started = true →
    (∀ op ∈ ops, op ≠ .reset) →
    (applyAll ops s).fault = some r ∧ SameBut [.dt, .st, .keys] s (applyAll ops s)

/-- A step that latches a fault changes nothing else but `started`: PC is the address of the faulting instruction, and
the record holds that address and, when the fetch completed, the word fetched. The spec's decision D16
(notes/assumptions/9.md). -/
def Obligations.FaultingStepHasNoOtherEffect : Prop :=
  ∀ s t : State, s.fault = none → step s = .next t → t.fault ≠ none →
    ∃ r, t = { s with started := true, fault := some r } ∧ r.pc = s.pc ∧
      (s.pc.toNat ≤ 0xFFE →
        r.word = some (wordOfBytes (s.mem.readByte s.pc.toNat) (s.mem.readByte (s.pc.toNat + 1)))) ∧
      (0xFFE < s.pc.toNat → r.word = none)

/-- Every instruction in every state answers a next state: none stops, whatever its operands (90_conflicts.md C5,
"execution is then total: every tick either commits an instruction or latches a fault"). -/
def Obligations.EveryInstructionAnswersANextState : Prop :=
  ∀ (i : Instr) (s : State), ∃ t, exec i s = .next t

/-- 60_exceptions.md R231, the execute-phase rows: an instruction latches a fault exactly under its one condition, and
then with its cause and address. The memory and key conditions are the spec's decisions D9 and D10
(notes/assumptions/9.md). -/
def Obligations.InstructionsFaultExactlyWhen : Prop :=
  ∀ (i : Instr) (s t : State), s.fault = none → exec i s = .next t →
    (∀ r, t.fault = some r →
      (r.cause = .stackOverflow ∧ r.addr = none ∧ s.sp.val = 16 ∧ ∃ nnn, i = .call nnn) ∨
      (r.cause = .stackUnderflow ∧ r.addr = none ∧ s.sp.val = 0 ∧ i = .ret) ∨
      (r.cause = .memoryOutOfRange ∧ r.addr = some (max s.base 0x1000) ∧ i.accesses ≠ 0 ∧
        0x1000 < s.base + i.accesses) ∨
      (r.cause = .keyIndexOutOfRange ∧ ∃ x, (i = .skp x ∨ i = .sknp x) ∧ 15 < (s.readV x).toNat ∧
        r.addr = some (s.readV x).toNat)) ∧
    (t.fault = none → (s.sp.val = 16 → ∀ nnn, i ≠ .call nnn) ∧ (s.sp.val = 0 → i ≠ .ret) ∧
      (i.accesses = 0 ∨ s.base + i.accesses ≤ 0x1000) ∧
      ∀ x, (i = .skp x ∨ i = .sknp x) → (s.readV x).toNat ≤ 15)

/-! ### Control flow -/

/-- 40_control_flow.md R124 and R126: CLS turns every pixel off and changes nothing else; JP sets PC to nnn
and changes nothing else. -/
def Obligations.ClearAndJumpResults : Prop :=
  (∀ s : State, ∃ t, exec .cls s = .next t ∧ (∀ y x, t.fb.pixel y x = false) ∧ SameBut [.fb] s t) ∧
  (∀ (s : State) (nnn : Imm12), ∃ t, exec (.jp nnn) s = .next t ∧ t.pc.toNat = nnn.toNat ∧ SameBut [.pc] s t)

/-- NOP changes nothing (40_control_flow.md R123; its word is the spec's decision D2); JP V0 sets PC to nnn + V0, not
masked and never wrapping (R128; the register and the width are decision D8, notes/assumptions/10.md). -/
def Obligations.NopAndOffsetJumpResults : Prop :=
  (∀ s : State, ∃ t, exec .nop s = .next t ∧ SameBut [] s t) ∧
  (∀ (s : State) (nnn : Imm12), ∃ t, exec (.jpV0 nnn) s = .next t ∧
    t.pc.toNat = nnn.toNat + (s.readV 0).toNat ∧ SameBut [.pc] s t)

/-- CALL (40_control_flow.md R127): with an entry free it pushes the address after it, adds one to SP and goes to nnn;
with none it latches StackOverflow. The slot is the spec's decision D24, the record's form D16. -/
def Obligations.CallPushesTheReturnAddress : Prop :=
  (∀ (s : State) (nnn : Imm12) (h : s.sp.val < 16), ∃ t, exec (.call nnn) s = .next t ∧
    t.sp.val = s.sp.val + 1 ∧ t.stack[s.sp.val]'h = s.pc ∧
    (∀ k : Fin 16, k.val ≠ s.sp.val → t.stack[k] = s.stack[k]) ∧ t.pc.toNat = nnn.toNat ∧
    SameBut [.pc, .sp, .stack] s t) ∧
  (∀ (s : State) (nnn : Imm12), s.sp.val = 16 →
    exec (.call nnn) s = .next (s.latched (.call nnn) .stackOverflow none))

/-- RET (40_control_flow.md R125): with an entry in use it takes one from SP and goes to the entry popped, as it is;
with none it latches StackUnderflow. The slot is the spec's decision D24, the record's form D16. -/
def Obligations.ReturnPopsTheReturnAddress : Prop :=
  (∀ (s : State) (k : Fin 16), s.sp.val = k.val + 1 → ∃ t, exec .ret s = .next t ∧
    t.sp.val = k.val ∧ t.pc = s.stack[k] ∧ SameBut [.pc, .sp] s t) ∧
  (∀ s : State, s.sp.val = 0 → exec .ret s = .next (s.latched .ret .stackUnderflow none))

/-- A RET that runs with the stack a CALL left resumes at the instruction after the CALL, with SP and every entry in
use as before (40_control_flow.md R127, R129). The return address is derived by the spec from R121; which slots are the
entries in use is its decision D24 (notes/assumptions/20.md). -/
def Obligations.ReturnUndoesCall : Prop :=
  ∀ (s t u : State) (nnn : Imm12), s.sp.val < 16 → exec (.call nnn) s = .next t → u.stack = t.stack → u.sp = t.sp →
    ∃ w, exec .ret u = .next w ∧ w.pc = s.pc ∧ w.sp = s.sp ∧
      (∀ k : Fin 16, k.val < s.sp.val → w.stack[k] = s.stack[k]) ∧ SameBut [.pc, .sp] u w

/-- Sixteen nested calls succeed from an empty stack, whatever their targets; a CALL with all sixteen entries in use, so
the seventeenth, raises StackOverflow, pushes nothing and leaves PC at its own address (60_exceptions.md R233). That
the faulting CALL has no effect at all is the spec's decision D16 (R236; notes/assumptions/9.md); that `s.pc - 2` is
its own address follows from the state `exec` runs on (notes/assumptions/8.md). -/
def Obligations.SeventeenthNestedCallOverflows : Prop :=
  (∀ (s : State) (targets : List Imm12), s.sp.val = 0 → s.fault = none → targets.length = 16 →
    ∃ t, callAll targets s = .next t ∧ t.fault = none ∧ t.sp.val = 16) ∧
  (∀ (s : State) (nnn : Imm12), s.sp.val = 16 →
    ∃ u r, exec (.call nnn) s = .next u ∧ u.fault = some r ∧ r.cause = .stackOverflow ∧
      u.sp = s.sp ∧ u.stack = s.stack ∧ u.pc = s.pc - 2)

/-! ### Skips -/

/-- 41_skips.md R141 to R144: each skip adds 2 to PC exactly when its condition holds, and changes nothing else. -/
def Obligations.RegisterSkipResults : Prop :=
  ∀ (s : State) (x y : Reg) (kk : Byte),
    (∃ t, exec (.seImm x kk) s = .next t ∧ t.pc = s.pc + (if s.readV x = kk then 2 else 0) ∧ SameBut [.pc] s t) ∧
    (∃ t, exec (.sneImm x kk) s = .next t ∧ t.pc = s.pc + (if s.readV x = kk then 0 else 2) ∧ SameBut [.pc] s t) ∧
    (∃ t, exec (.seReg x y) s = .next t ∧ t.pc = s.pc + (if s.readV x = s.readV y then 2 else 0) ∧
      SameBut [.pc] s t) ∧
    (∃ t, exec (.sneReg x y) s = .next t ∧ t.pc = s.pc + (if s.readV x = s.readV y then 0 else 2) ∧
      SameBut [.pc] s t)

/-- SKP and SKNP (45_keypad.md R201, R202) add 2 to PC exactly when the key whose index is the whole byte V[x] is
pressed, or is not; an index above 15 latches KeyIndexOutOfRange (R200, the spec's decision D10,
notes/assumptions/9.md). -/
def Obligations.KeySkipResults : Prop :=
  (∀ (s : State) (x : Reg) (k : Fin 16), (s.readV x).toNat = k.val →
    (∃ t, exec (.skp x) s = .next t ∧ t.pc = s.pc + (if s.keys[k] = true then 2 else 0) ∧ SameBut [.pc] s t) ∧
    (∃ t, exec (.sknp x) s = .next t ∧ t.pc = s.pc + (if s.keys[k] = true then 0 else 2) ∧ SameBut [.pc] s t)) ∧
  (∀ (s : State) (x : Reg), 15 < (s.readV x).toNat →
    exec (.skp x) s = .next (s.latched (.skp x) .keyIndexOutOfRange (some (s.readV x).toNat)) ∧
    exec (.sknp x) s = .next (s.latched (.sknp x) .keyIndexOutOfRange (some (s.readV x).toNat)))

/-! ### Load and arithmetic -/

/-- 42_alu.md R154, R155, R156: the three that write no flag, for every x including F. -/
def Obligations.LoadAndAddImmediateResults : Prop :=
  ∀ (s : State) (x y : Reg) (kk : Byte),
    (∃ t, exec (.ldImm x kk) s = .next t ∧ t.readV x = kk ∧ SameRegsBut [x] s t ∧ SameBut [.v] s t) ∧
    (∃ t, exec (.addImm x kk) s = .next t ∧ (t.readV x).toNat = ((s.readV x).toNat + kk.toNat) % 256 ∧
      SameRegsBut [x] s t ∧ SameBut [.v] s t) ∧
    (∃ t, exec (.ldReg x y) s = .next t ∧ t.readV x = s.readV y ∧ SameRegsBut [x] s t ∧ SameBut [.v] s t)

/-- OR, AND, XOR (42_alu.md R157, R158, R159): bitwise on all 8 bits. That VF is unchanged unless x = F is the spec's
decision D6 (notes/assumptions/10.md). -/
def Obligations.LogicResults : Prop :=
  ∀ (s : State) (x y : Reg),
    (∃ t, exec (.orReg x y) s = .next t ∧
      (∀ k < 8, (t.readV x).getLsbD k = ((s.readV x).getLsbD k || (s.readV y).getLsbD k)) ∧
      SameRegsBut [x] s t ∧ SameBut [.v] s t) ∧
    (∃ t, exec (.andReg x y) s = .next t ∧
      (∀ k < 8, (t.readV x).getLsbD k = ((s.readV x).getLsbD k && (s.readV y).getLsbD k)) ∧
      SameRegsBut [x] s t ∧ SameBut [.v] s t) ∧
    (∃ t, exec (.xorReg x y) s = .next t ∧
      (∀ k < 8, (t.readV x).getLsbD k = ((s.readV x).getLsbD k != (s.readV y).getLsbD k)) ∧
      SameRegsBut [x] s t ∧ SameBut [.v] s t)

/-- ADD, SUB, SUBN (42_alu.md R160, R161, R163) with the borrow convention of R151: the wrapped result in V[x] and the
flag in VF, for every x and y, computed from the operands as they were. That the operands are read first and that with
x = F the flag remains and the result is lost is the spec's decision D5 (R152; notes/assumptions/10.md). -/
def Obligations.AddAndSubtractResults : Prop :=
  ∀ (s : State) (x y : Reg) (a b : Nat), a = (s.readV x).toNat → b = (s.readV y).toNat →
    (∃ t, exec (.addReg x y) s = .next t ∧ (x ≠ vF → (t.readV x).toNat = (a + b) % 256) ∧
      (t.readV vF).toNat = (if 255 < a + b then 1 else 0) ∧ SameRegsBut [x, vF] s t ∧ SameBut [.v] s t) ∧
    (∃ t, exec (.subReg x y) s = .next t ∧ (x ≠ vF → (t.readV x).toNat = if b ≤ a then a - b else a + 256 - b) ∧
      (t.readV vF).toNat = (if b ≤ a then 1 else 0) ∧ SameRegsBut [x, vF] s t ∧ SameBut [.v] s t) ∧
    (∃ t, exec (.subnReg x y) s = .next t ∧ (x ≠ vF → (t.readV x).toNat = if a ≤ b then b - a else b + 256 - a) ∧
      (t.readV vF).toNat = (if a ≤ b then 1 else 0) ∧ SameRegsBut [x, vF] s t ∧ SameBut [.v] s t)

/-- SHR and SHL (42_alu.md R162, R164): V[x] in place by one bit, the bit shifted out in VF, for every y. That V[x] and
not V[y] is shifted is the spec's decision D4 (notes/assumptions/10.md). -/
def Obligations.ShiftResults : Prop :=
  ∀ (s : State) (x y : Reg) (a : Nat), a = (s.readV x).toNat →
    (∃ t, exec (.shr x y) s = .next t ∧ (x ≠ vF → (t.readV x).toNat = a / 2) ∧ (t.readV vF).toNat = a % 2 ∧
      SameRegsBut [x, vF] s t ∧ SameBut [.v] s t) ∧
    (∃ t, exec (.shl x y) s = .next t ∧ (x ≠ vF → (t.readV x).toNat = a * 2 % 256) ∧
      (t.readV vF).toNat = a / 128 ∧ SameRegsBut [x, vF] s t ∧ SameBut [.v] s t)

/-- Whole machine: an instruction writes no V register but those the table of 10_state.md R24 gives it, and only the
six flag-defining instructions write VF without naming it. R24 is derived by the spec from the instruction rules. -/
def Obligations.RegistersAreWrittenOnlyAsTheTableSays : Prop :=
  ∀ (i : Instr) (s t : State) (r : Reg), exec i s = .next t → i.writesReg r = false → t.readV r = s.readV r

/-! ### Index register and random byte -/

/-- 43_index_random.md R180, R181: I is loaded zero-extended; the sum wraps at 16 bits and writes no flag. -/
def Obligations.IndexRegisterResults : Prop :=
  ∀ (s : State) (nnn : Imm12) (x : Reg),
    (∃ t, exec (.ldI nnn) s = .next t ∧ t.i.toNat = nnn.toNat ∧ SameBut [.i] s t) ∧
    (∃ t, exec (.addI x) s = .next t ∧ t.i.toNat = (s.i.toNat + (s.readV x).toNat) % 65536 ∧ SameBut [.i] s t)

/-- RND (43_index_random.md R182) for EVERY byte `rnd` a tick may be handed (R183, the spec's decision D14): V[x] is
`rnd` AND kk, so no bit clear in kk is set, and no other part of the spec's state changes. That `draws` counts the
bytes used and that `exec` uses the next byte of a free stream are the model's choice (notes/assumptions/1.md). -/
def Obligations.RandomByteIsMasked : Prop :=
  ∀ (s : State) (x : Reg) (kk rnd : Byte),
    (∃ t, execWith rnd (.rnd x kk) s = .next t ∧
      (∀ k < 8, (t.readV x).getLsbD k = (rnd.getLsbD k && kk.getLsbD k)) ∧
      t.draws = s.draws + 1 ∧ SameRegsBut [x] s t ∧ SameBut [.v, .draws] s t) ∧
    (∃ t, exec (.rnd x kk) s = .next t ∧ execWith (Config.rnd s.draws) (.rnd x kk) s = .next t ∧
      (∀ k < 8, kk.getLsbD k = false → (t.readV x).getLsbD k = false))

/-- The byte handed to a tick matters to no other instruction (43_index_random.md R183, the spec's decision D14). -/
def Obligations.OnlyRndUsesTheRandomByte : Prop :=
  ∀ (i : Instr) (s : State) (r1 r2 : Byte), (∀ x kk, i ≠ .rnd x kk) →
    execWith r1 i s = execWith r2 i s ∧ execWith r1 i s = exec i s

/-! ### Draw -/

/-- DRW inside memory (44_draw.md R190, R191, R193, R194): with the coordinates VF held before included, exactly the
pixels under a set sprite bit, wrapped, are inverted; VF is 1 iff one of them was lit, else 0; nothing else changes;
no row means no access. Bit order and the latching of the coordinates are the spec's decision D12
(notes/assumptions/11.md). -/
def Obligations.DrawFlipsExactlyTheCoveredPixels : Prop :=
  ∀ (s : State) (x y : Reg) (n : Fin 16), (n.val = 0 ∨ s.base + n.val ≤ 0x1000) →
    ∃ t, exec (.drw x y n) s = .next t ∧
      (∀ py px, s.spriteCovers (s.readV x).toNat (s.readV y).toNat n.val py px →
        t.fb.pixel py px = !s.fb.pixel py px) ∧
      (∀ py px, ¬ s.spriteCovers (s.readV x).toNat (s.readV y).toNat n.val py px →
        t.fb.pixel py px = s.fb.pixel py px) ∧
      ((∃ py px, s.spriteCovers (s.readV x).toNat (s.readV y).toNat n.val py px ∧ s.fb.pixel py px = true) →
        t.readV vF = 1) ∧
      ((∀ py px, s.spriteCovers (s.readV x).toNat (s.readV y).toNat n.val py px → s.fb.pixel py px = false) →
        t.readV vF = 0) ∧
      SameRegsBut [vF] s t ∧ SameBut [.v, .fb] s t

/-- Drawing the same sprite again at the same coordinates restores every pixel, and the second draw reports a collision
iff some set bit lay over a pixel that was off before the first (44_draw.md R196, derived by the spec; conflict C2).
The second draw may run in any state with the first one's screen, memory, I and coordinates. -/
def Obligations.DrawingTwiceRestoresTheScreen : Prop :=
  ∀ (s t u : State) (x y x' y' : Reg) (n : Fin 16), (n.val = 0 ∨ s.base + n.val ≤ 0x1000) →
    exec (.drw x y n) s = .next t → u.fb = t.fb → u.i = s.i → (∀ a, u.mem.readByte a = s.mem.readByte a) →
    u.readV x' = s.readV x → u.readV y' = s.readV y →
    ∃ w, exec (.drw x' y' n) u = .next w ∧ w.fb = s.fb ∧
      (w.readV vF = 1 ↔ ∃ py px, s.spriteCovers (s.readV x).toNat (s.readV y).toNat n.val py px ∧
        s.fb.pixel py px = false)

/-- DRW, LD B, LD [I] and LD Vx [I] that would leave memory latch MemoryOutOfRange with the lowest address out of
range, and write nothing. The spec's decisions D9 and D16 (notes/assumptions/9.md). -/
def Obligations.DataAccessOutsideMemoryFaults : Prop :=
  ∀ (i : Instr) (s : State), i.accesses ≠ 0 → 0x1000 < s.base + i.accesses →
    exec i s = .next (s.latched i .memoryOutOfRange (some (if s.base ≤ 0xFFF then 0x1000 else s.base)))

/-! ### Keypad -/

/-- LD Vx K (45_keypad.md R203): with a key down V[x] is the least pressed index (R204, the spec's decision D13,
notes/assumptions/12.md) and the wait is over; with none PC goes back to the instruction itself and nothing else
changes. -/
def Obligations.KeyWaitResults : Prop :=
  (∀ (s : State) (x : Reg) (k : Fin 16), s.keys[k] = true → (∀ j : Fin 16, j < k → s.keys[j] = false) →
    ∃ t, exec (.ldVxK x) s = .next t ∧ (t.readV x).toNat = k.val ∧ SameRegsBut [x] s t ∧ SameBut [.v] s t) ∧
  (∀ (s : State) (x : Reg), (∀ k : Fin 16, s.keys[k] = false) →
    ∃ t, exec (.ldVxK x) s = .next t ∧ t.pc = s.pc - 2 ∧ SameBut [.pc] s t)

/-! ### Timers, font address, BCD, block transfers -/

/-- 46_timers_font_bcd_block.md R212, R213: DT is read and written; LD ST Vx (R214) writes ST likewise. That no
instruction reads ST: SoundTimerIsInvisibleToPrograms. -/
def Obligations.TimerAccessResults : Prop :=
  ∀ (s : State) (x : Reg),
    (∃ t, exec (.ldVxDt x) s = .next t ∧ t.readV x = s.dt ∧ SameRegsBut [x] s t ∧ SameBut [.v] s t) ∧
    (∃ t, exec (.ldDtVx x) s = .next t ∧ t.dt = s.readV x ∧ SameBut [.dt] s t) ∧
    (∃ t, exec (.ldStVx x) s = .next t ∧ t.st = s.readV x ∧ SameBut [.st] s t)

/-- LD F Vx (46_timers_font_bcd_block.md R215): I is 0x50 + 5 * V[x] for every byte V[x]; that a digit above 15 is not
masked is the spec's decision D11 (notes/assumptions/12.md). -/
def Obligations.FontAddressResult : Prop :=
  ∀ (s : State) (x : Reg), ∃ t, exec (.ldF x) s = .next t ∧ t.i.toNat = 0x50 + (s.readV x).toNat * 5 ∧ SameBut [.i] s t

/-- LD B Vx inside memory (46_timers_font_bcd_block.md R216): the three digits at I, I+1, I+2, and no other byte
changes. Where it would leave memory: DataAccessOutsideMemoryFaults. I unchanged is the spec's decision D7; the
canonical form kept is the model's (notes/assumptions/7.md). -/
def Obligations.BcdStoresThreeDigits : Prop :=
  ∀ (s : State) (x : Reg), s.mem.wf = true → s.base + 3 ≤ 0x1000 →
    ∃ t, exec (.ldB x) s = .next t ∧
      (t.mem.readByte s.base).toNat = (s.readV x).toNat / 100 ∧
      (t.mem.readByte (s.base + 1)).toNat = (s.readV x).toNat / 10 % 10 ∧
      (t.mem.readByte (s.base + 2)).toNat = (s.readV x).toNat % 10 ∧
      (∀ a, (a < s.base ∨ s.base + 3 ≤ a) → t.mem.readByte a = s.mem.readByte a) ∧
      t.mem.wf = true ∧ SameBut [.mem] s t

/-- LD [I] Vx inside memory (46_timers_font_bcd_block.md R217): V[0] to V[x], x + 1 of them, at I, I+1, ..., and no
other byte changes. Where it would leave memory: DataAccessOutsideMemoryFaults. I unchanged is the spec's decision
D7; the canonical form kept is the model's (notes/assumptions/7.md). -/
def Obligations.StoreRegistersWritesTheBlock : Prop :=
  ∀ (s : State) (x : Reg), s.mem.wf = true → s.base + (x.val + 1) ≤ 0x1000 →
    ∃ t, exec (.storeRegs x) s = .next t ∧
      (∀ r : Reg, r.val ≤ x.val → t.mem.readByte (s.base + r.val) = s.readV r) ∧
      (∀ a, (a < s.base ∨ s.base + x.val < a) → t.mem.readByte a = s.mem.readByte a) ∧
      t.mem.wf = true ∧ SameBut [.mem] s t

/-- LD Vx [I] inside memory (46_timers_font_bcd_block.md R218): V[0] to V[x] from I, I+1, ...; registers above x keep
their values. Where it would leave memory: DataAccessOutsideMemoryFaults. I unchanged is the spec's decision D7. -/
def Obligations.LoadRegistersReadsTheBlock : Prop :=
  ∀ (s : State) (x : Reg), s.base + (x.val + 1) ≤ 0x1000 →
    ∃ t, exec (.loadRegs x) s = .next t ∧
      (∀ r : Reg, r.val ≤ x.val → t.readV r = s.mem.readByte (s.base + r.val)) ∧
      (∀ r : Reg, x.val < r.val → t.readV r = s.readV r) ∧ SameBut [.v] s t

/-- A store into the instruction stream is seen by the next fetch (20_memory.md R75, derived by the spec): after an
LD [I] Vx with x >= 1 and I at PC, the next step runs the instruction whose word the stored V0 and V1 make. -/
def Obligations.StoreIsSeenByTheNextFetch : Prop :=
  ∀ (s t : State) (x : Reg) (i : Instr), s.mem.wf = true → s.fault = none → 1 ≤ x.val →
    s.base + (x.val + 1) ≤ 0x1000 → s.i = s.pc → exec (.storeRegs x) s = .next t →
    decodeWord (wordOfBytes (s.readV 0) (s.readV 1)) = some i →
    step t = exec i { t with pc := t.pc + 2, started := true }

/-! ### Whole-machine rules -/

/-- 10_state.md R26: PC after reset is 0x200; an instruction executes with PC two past its own address `s.pc`; how
each instruction leaves PC; a tick that faults leaves it at that address. These are the spec's decisions: the slot CALL
writes, `stack[SP]`, and the slot RET reads, `stack[SP - 1]`, D24 (notes/assumptions/20.md); the register and width of
JP V0, D8 (10.md); PC after a fault, D16 (9.md); the level test of the key wait, D13 (12.md); odd addresses, D19
(17.md). -/
def Obligations.PcAtTheEndOfEachStep : Prop :=
  State.reset.pc = 0x200 ∧
  (∀ s t : State, s.fault = none → step s = .next t → t.fault ≠ none → t.pc = s.pc) ∧
  ∀ (s t : State) (i : Instr), s.fault = none → s.pc.toNat ≤ 0xFFE →
    decode [s.mem.readByte s.pc.toNat, s.mem.readByte (s.pc.toNat + 1)] = .ok (i, []) → step s = .next t →
    (∃ u : State, u.pc.toNat = s.pc.toNat + 2 ∧ SameBut [.pc, .started] s u ∧ step s = exec i u) ∧
    (t.fault = none →
      match i with
      | .jp nnn => t.pc.toNat = nnn.toNat
      | .call nnn => t.pc.toNat = nnn.toNat ∧
          ∃ k : Fin 16, k.val = s.sp.val ∧ t.stack[k].toNat = s.pc.toNat + 2
      | .ret => ∃ k : Fin 16, s.sp.val = k.val + 1 ∧ t.pc = s.stack[k]
      | .jpV0 nnn => t.pc.toNat = nnn.toNat + (s.readV 0).toNat ∧ t.pc.toNat ≤ 0x10FE
      | .seImm x kk => t.pc.toNat = s.pc.toNat + if s.readV x = kk then 4 else 2
      | .sneImm x kk => t.pc.toNat = s.pc.toNat + if s.readV x = kk then 2 else 4
      | .seReg x y => t.pc.toNat = s.pc.toNat + if s.readV x = s.readV y then 4 else 2
      | .sneReg x y => t.pc.toNat = s.pc.toNat + if s.readV x = s.readV y then 2 else 4
      | .skp x => ∃ k : Fin 16, (s.readV x).toNat = k.val ∧
          t.pc.toNat = s.pc.toNat + if s.keys[k] = true then 4 else 2
      | .sknp x => ∃ k : Fin 16, (s.readV x).toNat = k.val ∧
          t.pc.toNat = s.pc.toNat + if s.keys[k] = true then 2 else 4
      | .ldVxK _ => t.pc.toNat = s.pc.toNat + if ∃ k : Fin 16, s.keys[k] = true then 2 else 0
      | _ => t.pc.toNat = s.pc.toNat + 2)

/-- Whole machine: which instructions may change each part of the state (10_state.md R25, R28, R30, R32, R33,
20_memory.md R69; that I is left alone by the memory instructions is the spec's decision D7). -/
def Obligations.PartsAreChangedOnlyByTheirWriters : Prop :=
  ∀ (i : Instr) (s t : State), exec i s = .next t →
    t.keys = s.keys ∧ t.loaded = s.loaded ∧
    (t.fb ≠ s.fb → i = .cls ∨ ∃ x y n, i = .drw x y n) ∧
    ((∃ a, t.mem.readByte a ≠ s.mem.readByte a) → ∃ x, i = .ldB x ∨ i = .storeRegs x) ∧
    (t.i ≠ s.i → (∃ nnn, i = .ldI nnn) ∨ ∃ x, i = .addI x ∨ i = .ldF x) ∧
    (t.dt ≠ s.dt → ∃ x, i = .ldDtVx x) ∧
    (t.st ≠ s.st → ∃ x, i = .ldStVx x) ∧
    (t.stack ≠ s.stack → ∃ nnn, i = .call nnn) ∧
    (t.sp ≠ s.sp → i = .ret ∨ ∃ nnn, i = .call nnn) ∧
    (t.draws ≠ s.draws → ∃ x kk, i = .rnd x kk)

/-- 10_state.md R33: the keys are all released after reset, and only the external driver (set_key, or reset) changes
one; no instruction and no other operation does. -/
def Obligations.KeysAreWrittenOnlyFromOutside : Prop :=
  (∀ k : Fin 16, State.reset.keys[k] = false) ∧
  (∀ (i : Instr) (s t : State), exec i s = .next t → t.keys = s.keys) ∧
  (∀ (op : HostOp) (s : State), op ≠ .reset → (∀ k b, op ≠ .setKey k b) → (apply op s).1.keys = s.keys)

/-- No instruction reads ST (10_state.md R30): two states that differ only in ST run alike, and end differing at most
in ST. -/
def Obligations.SoundTimerIsInvisibleToPrograms : Prop :=
  ∀ (i : Instr) (s t : State) (b : Byte), exec i s = .next t →
    ∃ u, exec i (s.setSt b) = .next u ∧ SameBut [.st] t u ∧ (u.st = b ∨ u.st = t.st)

/-- The two spins of the machine leave the whole state as it is: a jump to its own address (70_reset_and_hazards.md
R279, the spec's decision D27) and a key wait with no key down (45_keypad.md R203). -/
def Obligations.SpinsLeaveTheStateUnchanged : Prop :=
  ∀ (s : State) (w : Word), s.fault = none → s.started = true → s.pc.toNat ≤ 0xFFE →
    w = wordOfBytes (s.mem.readByte s.pc.toNat) (s.mem.readByte (s.pc.toNat + 1)) →
    (∀ nnn : Imm12, decodeWord w = some (.jp nnn) → nnn.toNat = s.pc.toNat → step s = .next s) ∧
    (∀ x, decodeWord w = some (.ldVxK x) → (∀ k : Fin 16, s.keys[k] = false) → step s = .next s)

/-! ### Memory -/

/-- The checked primitives (20_memory.md R62, R63), on a memory in its canonical form: an address above 0xFFF is
reported (the spec's decision D9, notes/assumptions/9.md); a two-byte read is big-endian; a write changes exactly one
byte, and keeps the form (the model's, notes/assumptions/7.md). -/
def Obligations.CheckedMemoryPrimitives : Prop :=
  ∀ (m : Memory) (a : Nat) (v : Byte), m.wf = true →
    m.read1 a = (if 0xFFF < a then .error a else .ok (m.readByte a)) ∧
    (0xFFF < a → m.read2 a = .error a ∧ m.write1 a v = .error a) ∧
    (a = 0xFFF → m.read2 a = .error 0x1000) ∧
    (a ≤ 0xFFE → ∃ w, m.read2 a = .ok w ∧ w.toNat = (m.readByte a).toNat * 256 + (m.readByte (a + 1)).toNat) ∧
    (a ≤ 0xFFF → ∃ m', m.write1 a v = .ok m' ∧ m'.wf = true ∧ m'.readByte a = v ∧
      ∀ c, c ≠ a → m'.readByte c = m.readByte c)

/-! ### Invariants -/

/-- The reset state satisfies the invariant of the reachable states. -/
def Obligations.ResetSatisfiesTheInvariant : Prop := State.reset.Inv

/-- From every state that satisfies it, a step keeps the invariant: memory in its canonical form, PC at most 0x10FE,
return addresses in use at most 0x1000, the latch consistent (10_state.md R27, R35, R36, derived by the spec). Which
slots are in use is decision D24, the latch's form D16 (notes/assumptions/20.md, 9.md). -/
def Obligations.StepKeepsTheInvariant : Prop :=
  ∀ s t : State, s.Inv → step s = .next t → t.Inv

/-- Every operation of every agent keeps the invariant, a tick with any random byte included, so every reachable state
satisfies it (10_state.md R27, R35, R36, derived by the spec). Which stack slots are in use is decision D24, the latch's
form D16 (notes/assumptions/20.md, 9.md). -/
def Obligations.EveryOperationKeepsTheInvariant : Prop :=
  (∀ (op : HostOp) (s : State), s.Inv → (apply op s).1.Inv) ∧ ∀ s : State, s.Reachable → s.Inv

/-! ### The other agents -/

/-- The step of the timer driver (60_exceptions.md R245): each timer goes down by one, never below 0, on a halted block
too, and nothing else changes. How often it happens is left open (R246, decision D18). -/
def Obligations.TimerTickResult : Prop :=
  ∀ s : State, ∃ t, apply .timerTick s = (t, .ok) ∧ t.dt.toNat = s.dt.toNat - 1 ∧ t.st.toNat = s.st.toNat - 1 ∧
    SameBut [.dt, .st] s t

/-- 60_exceptions.md R249: one key state is written; an index of 16 or more is refused and changes nothing; no
instruction writes a key state. -/
def Obligations.SetKeyResult : Prop :=
  (∀ (s : State) (k : Fin 16) (b : Bool), ∃ t, apply (.setKey k.val b) s = (t, .ok) ∧ t.keys[k] = b ∧
    (∀ j : Fin 16, j ≠ k → t.keys[j] = s.keys[j]) ∧ SameBut [.keys] s t) ∧
  (∀ (s : State) (k : Nat) (b : Bool), 16 ≤ k → apply (.setKey k b) s = (s, .refused (.keyIndexOutOfContract k))) ∧
  (∀ (i : Instr) (s t : State), exec i s = .next t → t.keys = s.keys)

/-- 60_exceptions.md R248: the 2048 pixels in row-major order, and nothing changes. -/
def Obligations.ReadDisplayResult : Prop :=
  ∀ s : State, ∃ l, apply .readDisplay s = (s, .pixels l) ∧ l.length = 2048 ∧
    ∀ (y : Fin 32) (x : Fin 64), l.getD (y.val * 64 + x.val) false = s.fb.pixel y x

/-- load_program (20_memory.md R80): before the first load and the first tick, an image that fits is copied verbatim to
0x200 and every other byte keeps its value; one that does not fit is reported and changes nothing. The premise that
nothing is loaded or started, the bit `loaded`, and a report that changes no state are the spec's decision D23
(notes/assumptions/15.md); the canonical form kept is the model's (notes/assumptions/7.md). -/
def Obligations.LoadProgramResult : Prop :=
  ∀ (s : State) (image : List Byte), s.mem.wf = true → s.loaded = false → s.started = false →
    (0x200 + image.length ≤ 4096 → ∃ t, apply (.loadProgram image) s = (t, .ok) ∧ t.loaded = true ∧
      (∀ k < image.length, t.mem.readByte (0x200 + k) = image.getD k 0) ∧
      (∀ a, (a < 0x200 ∨ 0x200 + image.length ≤ a) → t.mem.readByte a = s.mem.readByte a) ∧
      t.mem.wf = true ∧ SameBut [.mem, .loaded] s t) ∧
    (4096 < 0x200 + image.length → apply (.loadProgram image) s = (s, .programTooLarge))

/-- A fetch at 0x200 + 2k in the memory a load leaves reads bytes 2k and 2k + 1 of the image, the first one high
(20_memory.md R83, derived by the spec from R66 and R80; when a load is accepted is decision D23,
notes/assumptions/15.md). -/
def Obligations.LoadedWordIsTheOneFetched : Prop :=
  ∀ (s t u : State) (image : List Byte) (k : Nat), s.mem.wf = true → apply (.loadProgram image) s = (t, .ok) →
    2 * k + 1 < image.length → u.mem = t.mem → u.pc.toNat = 0x200 + 2 * k →
    ∃ w, u.fetch = .ok w ∧ w.toNat = (image.getD (2 * k) 0).toNat * 256 + (image.getD (2 * k + 1) 0).toNat

/-- A second load, or one after the first tick, is refused and changes nothing; a tick and a load that succeeds both
close the door (20_memory.md R82, the spec's decision D23, notes/assumptions/15.md). -/
def Obligations.LoadIsRefusedAfterLoadOrTick : Prop :=
  (∀ (s : State) (image : List Byte), s.loaded = true ∨ s.started = true →
    apply (.loadProgram image) s = (s, .refused .loadNotAllowed)) ∧
  (∀ (s : State) (rnd : Byte), s.fault = none → (apply (.tick rnd) s).1.started = true) ∧
  (∀ (s t : State) (image : List Byte), apply (.loadProgram image) s = (t, .ok) → t.loaded = true)

/-- `reset` (70_reset_and_hazards.md R270, R271) gives the same state from every state: the values of 10_state.md R39.
The zeros of V, I, DT, ST and the stack are the spec's decision D15 (notes/assumptions/6.md); the font's place is the
source's, its bytes are decision D20 (notes/assumptions/4.md); `draws` is the model's own (notes/assumptions/1.md) and
the statement says nothing of it. -/
def Obligations.ResetResult : Prop :=
  ∀ s : State, ∃ t, apply .reset s = (t, .ok) ∧ t = State.reset ∧ t.pc.toNat = 0x200 ∧ t.sp.val = 0 ∧
    (∀ r, t.readV r = 0) ∧ t.i = 0 ∧ t.dt = 0 ∧ t.st = 0 ∧ (∀ k : Fin 16, t.stack[k] = 0) ∧
    (∀ y x, t.fb.pixel y x = false) ∧ (∀ k : Fin 16, t.keys[k] = false) ∧
    t.fault = none ∧ t.loaded = false ∧ t.started = false ∧
    fontTable.length = 80 ∧ (∀ k < 80, t.mem.readByte (0x50 + k) = fontTable.getD k 0) ∧
    (∀ a, (a < 0x50 ∨ 0xA0 ≤ a) → t.mem.readByte a = 0)
end

