-- ==== Sys2Proof/Laws/Decode.lean ====
section
/-! SUPPORT. The fields of a word as numbers (30_encoding.md R91), the words of the formats as numbers (R92), and from
both: the fields of a word built in a format, and a word rebuilt from its fields. -/

namespace Sys2Proof

theorem toNat_append_eq {m n : Nat} (a : BitVec m) (b : BitVec n) :
    (a ++ b).toNat = a.toNat * 2 ^ n + b.toNat := by
  rw [BitVec.toNat_append, ← Nat.shiftLeft_add_eq_or_of_lt b.isLt, Nat.shiftLeft_eq]

/-! ### Fields as numbers -/

theorem toNat_fieldClass (w : Word) : (fieldClass w).toNat = w.toNat / 4096 := by
  have := w.isLt
  simp [fieldClass, BitVec.extractLsb'_toNat, Nat.shiftRight_eq_div_pow]
  omega

theorem val_fieldX (w : Word) : (fieldX w).val = w.toNat / 256 % 16 := by
  show (w.extractLsb' 8 4).toNat = _
  simp [BitVec.extractLsb'_toNat, Nat.shiftRight_eq_div_pow]

theorem val_fieldY (w : Word) : (fieldY w).val = w.toNat / 16 % 16 := by
  show (w.extractLsb' 4 4).toNat = _
  simp [BitVec.extractLsb'_toNat, Nat.shiftRight_eq_div_pow]

theorem val_fieldN (w : Word) : (fieldN w).val = w.toNat % 16 := by
  show (w.extractLsb' 0 4).toNat = _
  simp [BitVec.extractLsb'_toNat]

theorem toNat_fieldKk (w : Word) : (fieldKk w).toNat = w.toNat % 256 := by
  simp [fieldKk, BitVec.extractLsb'_toNat]

theorem toNat_fieldNnn (w : Word) : (fieldNnn w).toNat = w.toNat % 4096 := by
  simp [fieldNnn, BitVec.extractLsb'_toNat]

/-! ### Formats as numbers -/

section formats

variable (c : BitVec 4) (x y n : Fin 16) (kk : Byte) (nnn : Imm12)

theorem toNat_wordNnn : (wordNnn c nnn).toNat = c.toNat * 4096 + nnn.toNat :=
  toNat_append_eq c nnn

theorem toNat_wordXkk : (wordXkk c x kk).toNat = c.toNat * 4096 + x.val * 256 + kk.toNat := by
  refine (toNat_append_eq (c ++ BitVec.ofFin (w := 4) x) kk).trans ?_
  rw [toNat_append_eq c]
  show (c.toNat * 2 ^ 4 + x.val) * 2 ^ 8 + kk.toNat = _
  omega

theorem toNat_wordXyn : (wordXyn c x y n).toNat = c.toNat * 4096 + x.val * 256 + y.val * 16 + n.val := by
  refine (toNat_append_eq (c ++ BitVec.ofFin (w := 4) x ++ BitVec.ofFin (w := 4) y) (BitVec.ofFin (w := 4) n)).trans ?_
  rw [toNat_append_eq (c ++ _), toNat_append_eq c]
  show ((c.toNat * 2 ^ 4 + x.val) * 2 ^ 4 + y.val) * 2 ^ 4 + n.val = _
  omega

/-! ### Fields of a word in a format -/

@[simp] theorem fieldClass_wordNnn : fieldClass (wordNnn c nnn) = c := by
  apply BitVec.eq_of_toNat_eq
  have := nnn.isLt
  rw [toNat_fieldClass, toNat_wordNnn]; omega

@[simp] theorem fieldNnn_wordNnn : fieldNnn (wordNnn c nnn) = nnn := by
  apply BitVec.eq_of_toNat_eq
  have := nnn.isLt
  rw [toNat_fieldNnn, toNat_wordNnn]; omega

@[simp] theorem fieldClass_wordXkk : fieldClass (wordXkk c x kk) = c := by
  apply BitVec.eq_of_toNat_eq
  have := kk.isLt
  have := x.isLt
  rw [toNat_fieldClass, toNat_wordXkk]; omega

@[simp] theorem fieldX_wordXkk : fieldX (wordXkk c x kk) = x := by
  apply Fin.eq_of_val_eq
  have := kk.isLt
  have := x.isLt
  rw [val_fieldX, toNat_wordXkk]; omega

@[simp] theorem fieldKk_wordXkk : fieldKk (wordXkk c x kk) = kk := by
  apply BitVec.eq_of_toNat_eq
  have := kk.isLt
  rw [toNat_fieldKk, toNat_wordXkk]; omega

@[simp] theorem fieldClass_wordXyn : fieldClass (wordXyn c x y n) = c := by
  apply BitVec.eq_of_toNat_eq
  rw [toNat_fieldClass, toNat_wordXyn]; omega

@[simp] theorem fieldX_wordXyn : fieldX (wordXyn c x y n) = x := by
  apply Fin.eq_of_val_eq
  rw [val_fieldX, toNat_wordXyn]; omega

@[simp] theorem fieldY_wordXyn : fieldY (wordXyn c x y n) = y := by
  apply Fin.eq_of_val_eq
  rw [val_fieldY, toNat_wordXyn]; omega

@[simp] theorem fieldN_wordXyn : fieldN (wordXyn c x y n) = n := by
  apply Fin.eq_of_val_eq
  rw [val_fieldN, toNat_wordXyn]; omega

end formats

/-! ### A word rebuilt from its fields -/

theorem wordNnn_fields (w : Word) : wordNnn (fieldClass w) (fieldNnn w) = w := by
  apply BitVec.eq_of_toNat_eq
  rw [toNat_wordNnn, toNat_fieldClass, toNat_fieldNnn]; omega

theorem wordXkk_fields (w : Word) : wordXkk (fieldClass w) (fieldX w) (fieldKk w) = w := by
  apply BitVec.eq_of_toNat_eq
  rw [toNat_wordXkk, toNat_fieldClass, val_fieldX, toNat_fieldKk]; omega

theorem wordXyn_fields (w : Word) : wordXyn (fieldClass w) (fieldX w) (fieldY w) (fieldN w) = w := by
  apply BitVec.eq_of_toNat_eq
  rw [toNat_wordXyn, toNat_fieldClass, val_fieldX, val_fieldY, val_fieldN]; omega

/-! ### Bytes -/

theorem toNat_wordOfBytes (hi lo : Byte) : (wordOfBytes hi lo).toNat = hi.toNat * 256 + lo.toNat :=
  toNat_append_eq hi lo

/-- The two bytes of a word, read big-endian, are the word (20_memory.md R66). -/
@[simp] theorem wordOfBytes_bytesOfWord (w : Word) :
    wordOfBytes (w.extractLsb' 8 8) (w.extractLsb' 0 8) = w := by
  apply BitVec.eq_of_toNat_eq
  have := w.isLt
  rw [toNat_wordOfBytes]
  simp [BitVec.extractLsb'_toNat, Nat.shiftRight_eq_div_pow]
  omega

/-- Reading the bytes of a word is decoding the word. -/
theorem decode_bytesOfWord (w : Word) (rest : List Byte) :
    decode (bytesOfWord w ++ rest) =
      match decodeWord w with
      | some i => .ok (i, rest)
      | none => .error (.undefinedWord w) := by
  cases h : decodeWord w <;> simp [bytesOfWord, decode, h]

end Sys2Proof
end

