-- ==== Sys2Proof/Laws/Memory.lean ====
section
/-! SUPPORT. The laws of memory: a read after a write, the canonical form kept by every operation, equality of
canonical memories that read alike, and the range check. -/

namespace Sys2Proof.Machine

theorem Memory.wfFrom_cons {lo k : Nat} {b : Byte} {rest : Memory} :
    Memory.wfFrom lo ((k, b) :: rest) = true ↔
      lo ≤ k ∧ k ≤ 0xFFF ∧ b ≠ Memory.unlisted k ∧ Memory.wfFrom (k + 1) rest = true := by
  simp [Memory.wfFrom, and_assoc]

theorem Memory.wfFrom_mono {m : Memory} {lo lo' : Nat} (hle : lo' ≤ lo) (h : m.wfFrom lo = true) :
    m.wfFrom lo' = true := by
  cases m with
  | nil => rfl
  | cons e rest =>
    obtain ⟨k, b⟩ := e
    rw [wfFrom_cons] at h ⊢
    exact ⟨by omega, h.2⟩

/-- Below its first entry a canonical memory reads as unlisted. -/
theorem Memory.readByte_below {m : Memory} {lo c : Nat} (h : m.wfFrom lo = true) (hc : c < lo) :
    m.readByte c = Memory.unlisted c := by
  induction m generalizing lo with
  | nil => rfl
  | cons e rest ih =>
    obtain ⟨k, b⟩ := e
    rw [wfFrom_cons] at h
    obtain ⟨h1, -, -, h4⟩ := h
    have hne : c ≠ k := by omega
    rw [readByte, if_neg hne]
    exact ih h4 (by omega)

/-- A write is read back, and every other address reads as before (20_memory.md R63). -/
theorem Memory.readByte_writeByte_from {m : Memory} {lo : Nat} (h : m.wfFrom lo = true) (a : Nat) (v : Byte)
    (c : Nat) : (m.writeByte a v).readByte c = if c = a then v else m.readByte c := by
  induction m generalizing lo with
  | nil =>
    by_cases hv : v = unlisted a <;> by_cases hc : c = a <;> simp [writeByte, readByte, hv, hc]
  | cons e rest ih =>
    obtain ⟨k, b⟩ := e
    rw [wfFrom_cons] at h
    obtain ⟨-, -, -, h4⟩ := h
    by_cases hv : v = unlisted a
    · rcases Nat.lt_trichotomy a k with hk | hk | hk
      · have hr : readByte rest a = unlisted a := readByte_below h4 (by omega)
        by_cases hc : c = a
        · subst hc
          have : c ≠ k := by omega
          simp [writeByte, readByte, hv, hk, this, hr]
        · simp [writeByte, hv, hk, hc]
      · subst hk
        have hr : readByte rest a = unlisted a := readByte_below h4 (by omega)
        by_cases hc : c = a
        · subst hc; simp [writeByte, hv, hr]
        · simp [writeByte, readByte, hv, hc]
      · have h1 : ¬ a < k := by omega
        have h2 : ¬ a = k := by omega
        by_cases hc : c = k
        · subst hc
          have : ¬ c = a := by omega
          simp [writeByte, readByte, h1, h2, this]
        · simp [writeByte, readByte, h1, h2, hc, ih h4]
    · rcases Nat.lt_trichotomy a k with hk | hk | hk
      · by_cases hc : c = a <;> simp [writeByte, readByte, hv, hk, hc]
      · subst hk
        by_cases hc : c = a <;> simp [writeByte, readByte, hv, hc]
      · have h1 : ¬ a < k := by omega
        have h2 : ¬ a = k := by omega
        by_cases hc : c = k
        · subst hc
          have : ¬ c = a := by omega
          simp [writeByte, readByte, h1, h2, this]
        · simp [writeByte, readByte, h1, h2, hc, ih h4]

theorem Memory.readByte_writeByte {m : Memory} (h : m.wf = true) (a : Nat) (v : Byte) (c : Nat) :
    (m.writeByte a v).readByte c = if c = a then v else m.readByte c :=
  readByte_writeByte_from h a v c

/-- A write inside memory keeps the canonical form. -/
theorem Memory.wfFrom_writeByte {m : Memory} {lo a : Nat} (h : m.wfFrom lo = true) (hlo : lo ≤ a)
    (ha : a ≤ 0xFFF) (v : Byte) : (m.writeByte a v).wfFrom lo = true := by
  induction m generalizing lo with
  | nil => by_cases hv : v = unlisted a <;> simp [writeByte, wfFrom, hv, hlo, ha]
  | cons e rest ih =>
    obtain ⟨k, b⟩ := e
    have h' := wfFrom_cons.mp h
    obtain ⟨h1, h2, h3, h4⟩ := h'
    unfold writeByte
    split
    · rename_i hk
      split
      · exact h
      · rename_i hv
        exact wfFrom_cons.mpr ⟨hlo, ha, hv, wfFrom_cons.mpr ⟨by omega, h2, h3, h4⟩⟩
    · split
      · rename_i hk
        subst hk
        split
        · exact wfFrom_mono (by omega) h4
        · rename_i hv
          exact wfFrom_cons.mpr ⟨hlo, ha, hv, h4⟩
      · exact wfFrom_cons.mpr ⟨h1, h2, h3, ih h4 (by omega)⟩

theorem Memory.wf_writeByte {m : Memory} {a : Nat} (h : m.wf = true) (ha : a ≤ 0xFFF) (v : Byte) :
    (m.writeByte a v).wf = true :=
  wfFrom_writeByte h (Nat.zero_le a) ha v

/-- The canonical form is unique: canonical memories that read alike are the same list. -/
theorem Memory.eq_of_readByte_eq_from {m m' : Memory} {lo : Nat} (h : m.wfFrom lo = true) (h' : m'.wfFrom lo = true)
    (hr : ∀ c, m.readByte c = m'.readByte c) : m = m' := by
  induction m generalizing m' lo with
  | nil =>
    cases m' with
    | nil => rfl
    | cons e rest =>
      obtain ⟨k, b⟩ := e
      rw [wfFrom_cons] at h'
      have := hr k
      simp only [readByte, if_true] at this
      exact absurd this.symm h'.2.2.1
  | cons e rest ih =>
    obtain ⟨k, b⟩ := e
    rw [wfFrom_cons] at h
    cases m' with
    | nil =>
      have := hr k
      simp only [readByte, if_true] at this
      exact absurd this h.2.2.1
    | cons e' rest' =>
      obtain ⟨k', b'⟩ := e'
      rw [wfFrom_cons] at h'
      have hk : k = k' := by
        rcases Nat.lt_trichotomy k k' with hlt | heq | hgt
        · have hne : ¬ k = k' := by omega
          have := hr k
          rw [readByte, if_pos rfl, readByte, if_neg hne, readByte_below h'.2.2.2 (by omega)] at this
          exact absurd this h.2.2.1
        · exact heq
        · have hne : ¬ k' = k := by omega
          have := hr k'
          rw [readByte, if_neg hne, readByte, if_pos rfl, readByte_below h.2.2.2 (by omega)] at this
          exact absurd this.symm h'.2.2.1
      subst hk
      have hb : b = b' := by simpa [readByte] using hr k
      subst hb
      have : rest = rest' := ih h.2.2.2 h'.2.2.2 fun c => by
        by_cases hc : c = k
        · subst hc
          rw [readByte_below h.2.2.2 (by omega), readByte_below h'.2.2.2 (by omega)]
        · simpa [readByte, hc] using hr c
      rw [this]

theorem Memory.eq_of_readByte_eq {m m' : Memory} (h : m.wf = true) (h' : m'.wf = true)
    (hr : ∀ c, m.readByte c = m'.readByte c) : m = m' :=
  eq_of_readByte_eq_from h h' hr

/-! ### Blocks -/

theorem Memory.wf_writeBlock {bs : List Byte} {m : Memory} {base : Nat} (h : m.wf = true)
    (hb : base + bs.length ≤ 0x1000) : (m.writeBlock base bs).wf = true := by
  induction bs generalizing m base with
  | nil => exact h
  | cons b bs ih =>
    simp only [List.length_cons] at hb
    exact ih (wf_writeByte h (by omega) b) (by omega)

/-- A block write changes exactly its own bytes. -/
theorem Memory.readByte_writeBlock {bs : List Byte} {m : Memory} {base : Nat} (h : m.wf = true)
    (hb : base + bs.length ≤ 0x1000) (c : Nat) :
    (m.writeBlock base bs).readByte c =
      if base ≤ c ∧ c < base + bs.length then bs.getD (c - base) 0 else m.readByte c := by
  induction bs generalizing m base with
  | nil =>
    have : ¬ (base ≤ c ∧ c < base) := by omega
    simp [writeBlock]
  | cons b bs ih =>
    simp only [List.length_cons] at hb ⊢
    rw [writeBlock, ih (wf_writeByte h (by omega) b) (by omega), readByte_writeByte h]
    by_cases h0 : c = base
    · subst h0
      have h1 : ¬ (c + 1 ≤ c ∧ c < c + 1 + bs.length) := by omega
      have h2 : c ≤ c ∧ c < c + (bs.length + 1) := by omega
      simp [h2]
    · by_cases h1 : base + 1 ≤ c ∧ c < base + 1 + bs.length
      · have h2 : base ≤ c ∧ c < base + (bs.length + 1) := by omega
        have h3 : c - base = (c - (base + 1)) + 1 := by omega
        rw [if_pos h1, if_pos h2, h3, List.getD_cons_succ]
      · have h2 : ¬ (base ≤ c ∧ c < base + (bs.length + 1)) := by omega
        rw [if_neg h1, if_neg h2, if_neg h0]

@[simp] theorem Memory.length_readBlock (m : Memory) (base n : Nat) : (m.readBlock base n).length = n := by
  simp [readBlock]

theorem Memory.getD_readBlock (m : Memory) (base n k : Nat) (h : k < n) :
    (m.readBlock base n).getD k 0 = m.readByte (base + k) := by
  simp [readBlock, List.getD, h]

/-! ### Range checks (R64) -/

/-- No access is out of range exactly when there is none, or the highest address is in memory. -/
theorem outOfRange_eq_none {base n : Nat} : outOfRange base n = none ↔ n = 0 ∨ base + n ≤ 0x1000 := by
  unfold outOfRange
  split <;> simp_all <;> omega

/-- What is reported is the lowest address of the access that is out of range. -/
theorem outOfRange_eq_some {base n bad : Nat} (h : outOfRange base n = some bad) :
    0xFFF < bad ∧ base ≤ bad ∧ bad < base + n ∧ ∀ c, base ≤ c → c < bad → c ≤ 0xFFF := by
  unfold outOfRange at h
  split at h
  · simp only [Option.some.injEq] at h
    subst h
    exact ⟨by omega, by omega, by omega, by intro c; omega⟩
  · exact absurd h (by simp)

/-- `MemRead(addr, 2)` succeeds exactly when both bytes are in memory. -/
theorem Memory.read2_eq (m : Memory) (a : Nat) :
    m.read2 a = if a ≤ 0xFFE then .ok (wordOfBytes (m.readByte a) (m.readByte (a + 1)))
      else .error (max a 0x1000) := by
  unfold Memory.read2
  split
  · rw [if_neg (by omega)]; congr 1; omega
  · split
    · rw [if_neg (by omega)]; congr 1; omega
    · rw [if_pos (by omega)]

end Sys2Proof.Machine
end

