-- ==== Sys2Proof/Laws/State.lean ====
section
/-! SUPPORT. One lemma per field per update of the state: an update sets its own field and leaves every other. -/

namespace Sys2Proof.Machine

variable (s : State)

@[simp] theorem State.setV_v (a : Vector Byte 16) : (s.setV a).v = a := rfl
@[simp] theorem State.setV_i (a : Vector Byte 16) : (s.setV a).i = s.i := rfl
@[simp] theorem State.setV_pc (a : Vector Byte 16) : (s.setV a).pc = s.pc := rfl
@[simp] theorem State.setV_stack (a : Vector Byte 16) : (s.setV a).stack = s.stack := rfl
@[simp] theorem State.setV_sp (a : Vector Byte 16) : (s.setV a).sp = s.sp := rfl
@[simp] theorem State.setV_dt (a : Vector Byte 16) : (s.setV a).dt = s.dt := rfl
@[simp] theorem State.setV_st (a : Vector Byte 16) : (s.setV a).st = s.st := rfl
@[simp] theorem State.setV_mem (a : Vector Byte 16) : (s.setV a).mem = s.mem := rfl
@[simp] theorem State.setV_fb (a : Vector Byte 16) : (s.setV a).fb = s.fb := rfl
@[simp] theorem State.setV_keys (a : Vector Byte 16) : (s.setV a).keys = s.keys := rfl
@[simp] theorem State.setV_fault (a : Vector Byte 16) : (s.setV a).fault = s.fault := rfl
@[simp] theorem State.setV_loaded (a : Vector Byte 16) : (s.setV a).loaded = s.loaded := rfl
@[simp] theorem State.setV_started (a : Vector Byte 16) : (s.setV a).started = s.started := rfl
@[simp] theorem State.setV_draws (a : Vector Byte 16) : (s.setV a).draws = s.draws := rfl

@[simp] theorem State.setI_v (a : Word) : (s.setI a).v = s.v := rfl
@[simp] theorem State.setI_i (a : Word) : (s.setI a).i = a := rfl
@[simp] theorem State.setI_pc (a : Word) : (s.setI a).pc = s.pc := rfl
@[simp] theorem State.setI_stack (a : Word) : (s.setI a).stack = s.stack := rfl
@[simp] theorem State.setI_sp (a : Word) : (s.setI a).sp = s.sp := rfl
@[simp] theorem State.setI_dt (a : Word) : (s.setI a).dt = s.dt := rfl
@[simp] theorem State.setI_st (a : Word) : (s.setI a).st = s.st := rfl
@[simp] theorem State.setI_mem (a : Word) : (s.setI a).mem = s.mem := rfl
@[simp] theorem State.setI_fb (a : Word) : (s.setI a).fb = s.fb := rfl
@[simp] theorem State.setI_keys (a : Word) : (s.setI a).keys = s.keys := rfl
@[simp] theorem State.setI_fault (a : Word) : (s.setI a).fault = s.fault := rfl
@[simp] theorem State.setI_loaded (a : Word) : (s.setI a).loaded = s.loaded := rfl
@[simp] theorem State.setI_started (a : Word) : (s.setI a).started = s.started := rfl
@[simp] theorem State.setI_draws (a : Word) : (s.setI a).draws = s.draws := rfl

@[simp] theorem State.setPc_v (a : Word) : (s.setPc a).v = s.v := rfl
@[simp] theorem State.setPc_i (a : Word) : (s.setPc a).i = s.i := rfl
@[simp] theorem State.setPc_pc (a : Word) : (s.setPc a).pc = a := rfl
@[simp] theorem State.setPc_stack (a : Word) : (s.setPc a).stack = s.stack := rfl
@[simp] theorem State.setPc_sp (a : Word) : (s.setPc a).sp = s.sp := rfl
@[simp] theorem State.setPc_dt (a : Word) : (s.setPc a).dt = s.dt := rfl
@[simp] theorem State.setPc_st (a : Word) : (s.setPc a).st = s.st := rfl
@[simp] theorem State.setPc_mem (a : Word) : (s.setPc a).mem = s.mem := rfl
@[simp] theorem State.setPc_fb (a : Word) : (s.setPc a).fb = s.fb := rfl
@[simp] theorem State.setPc_keys (a : Word) : (s.setPc a).keys = s.keys := rfl
@[simp] theorem State.setPc_fault (a : Word) : (s.setPc a).fault = s.fault := rfl
@[simp] theorem State.setPc_loaded (a : Word) : (s.setPc a).loaded = s.loaded := rfl
@[simp] theorem State.setPc_started (a : Word) : (s.setPc a).started = s.started := rfl
@[simp] theorem State.setPc_draws (a : Word) : (s.setPc a).draws = s.draws := rfl

@[simp] theorem State.setStack_v (a : Vector Word 16) : (s.setStack a).v = s.v := rfl
@[simp] theorem State.setStack_i (a : Vector Word 16) : (s.setStack a).i = s.i := rfl
@[simp] theorem State.setStack_pc (a : Vector Word 16) : (s.setStack a).pc = s.pc := rfl
@[simp] theorem State.setStack_stack (a : Vector Word 16) : (s.setStack a).stack = a := rfl
@[simp] theorem State.setStack_sp (a : Vector Word 16) : (s.setStack a).sp = s.sp := rfl
@[simp] theorem State.setStack_dt (a : Vector Word 16) : (s.setStack a).dt = s.dt := rfl
@[simp] theorem State.setStack_st (a : Vector Word 16) : (s.setStack a).st = s.st := rfl
@[simp] theorem State.setStack_mem (a : Vector Word 16) : (s.setStack a).mem = s.mem := rfl
@[simp] theorem State.setStack_fb (a : Vector Word 16) : (s.setStack a).fb = s.fb := rfl
@[simp] theorem State.setStack_keys (a : Vector Word 16) : (s.setStack a).keys = s.keys := rfl
@[simp] theorem State.setStack_fault (a : Vector Word 16) : (s.setStack a).fault = s.fault := rfl
@[simp] theorem State.setStack_loaded (a : Vector Word 16) : (s.setStack a).loaded = s.loaded := rfl
@[simp] theorem State.setStack_started (a : Vector Word 16) : (s.setStack a).started = s.started := rfl
@[simp] theorem State.setStack_draws (a : Vector Word 16) : (s.setStack a).draws = s.draws := rfl

@[simp] theorem State.setSp_v (a : Fin 17) : (s.setSp a).v = s.v := rfl
@[simp] theorem State.setSp_i (a : Fin 17) : (s.setSp a).i = s.i := rfl
@[simp] theorem State.setSp_pc (a : Fin 17) : (s.setSp a).pc = s.pc := rfl
@[simp] theorem State.setSp_stack (a : Fin 17) : (s.setSp a).stack = s.stack := rfl
@[simp] theorem State.setSp_sp (a : Fin 17) : (s.setSp a).sp = a := rfl
@[simp] theorem State.setSp_dt (a : Fin 17) : (s.setSp a).dt = s.dt := rfl
@[simp] theorem State.setSp_st (a : Fin 17) : (s.setSp a).st = s.st := rfl
@[simp] theorem State.setSp_mem (a : Fin 17) : (s.setSp a).mem = s.mem := rfl
@[simp] theorem State.setSp_fb (a : Fin 17) : (s.setSp a).fb = s.fb := rfl
@[simp] theorem State.setSp_keys (a : Fin 17) : (s.setSp a).keys = s.keys := rfl
@[simp] theorem State.setSp_fault (a : Fin 17) : (s.setSp a).fault = s.fault := rfl
@[simp] theorem State.setSp_loaded (a : Fin 17) : (s.setSp a).loaded = s.loaded := rfl
@[simp] theorem State.setSp_started (a : Fin 17) : (s.setSp a).started = s.started := rfl
@[simp] theorem State.setSp_draws (a : Fin 17) : (s.setSp a).draws = s.draws := rfl

@[simp] theorem State.setDt_v (a : Byte) : (s.setDt a).v = s.v := rfl
@[simp] theorem State.setDt_i (a : Byte) : (s.setDt a).i = s.i := rfl
@[simp] theorem State.setDt_pc (a : Byte) : (s.setDt a).pc = s.pc := rfl
@[simp] theorem State.setDt_stack (a : Byte) : (s.setDt a).stack = s.stack := rfl
@[simp] theorem State.setDt_sp (a : Byte) : (s.setDt a).sp = s.sp := rfl
@[simp] theorem State.setDt_dt (a : Byte) : (s.setDt a).dt = a := rfl
@[simp] theorem State.setDt_st (a : Byte) : (s.setDt a).st = s.st := rfl
@[simp] theorem State.setDt_mem (a : Byte) : (s.setDt a).mem = s.mem := rfl
@[simp] theorem State.setDt_fb (a : Byte) : (s.setDt a).fb = s.fb := rfl
@[simp] theorem State.setDt_keys (a : Byte) : (s.setDt a).keys = s.keys := rfl
@[simp] theorem State.setDt_fault (a : Byte) : (s.setDt a).fault = s.fault := rfl
@[simp] theorem State.setDt_loaded (a : Byte) : (s.setDt a).loaded = s.loaded := rfl
@[simp] theorem State.setDt_started (a : Byte) : (s.setDt a).started = s.started := rfl
@[simp] theorem State.setDt_draws (a : Byte) : (s.setDt a).draws = s.draws := rfl

@[simp] theorem State.setSt_v (a : Byte) : (s.setSt a).v = s.v := rfl
@[simp] theorem State.setSt_i (a : Byte) : (s.setSt a).i = s.i := rfl
@[simp] theorem State.setSt_pc (a : Byte) : (s.setSt a).pc = s.pc := rfl
@[simp] theorem State.setSt_stack (a : Byte) : (s.setSt a).stack = s.stack := rfl
@[simp] theorem State.setSt_sp (a : Byte) : (s.setSt a).sp = s.sp := rfl
@[simp] theorem State.setSt_dt (a : Byte) : (s.setSt a).dt = s.dt := rfl
@[simp] theorem State.setSt_st (a : Byte) : (s.setSt a).st = a := rfl
@[simp] theorem State.setSt_mem (a : Byte) : (s.setSt a).mem = s.mem := rfl
@[simp] theorem State.setSt_fb (a : Byte) : (s.setSt a).fb = s.fb := rfl
@[simp] theorem State.setSt_keys (a : Byte) : (s.setSt a).keys = s.keys := rfl
@[simp] theorem State.setSt_fault (a : Byte) : (s.setSt a).fault = s.fault := rfl
@[simp] theorem State.setSt_loaded (a : Byte) : (s.setSt a).loaded = s.loaded := rfl
@[simp] theorem State.setSt_started (a : Byte) : (s.setSt a).started = s.started := rfl
@[simp] theorem State.setSt_draws (a : Byte) : (s.setSt a).draws = s.draws := rfl

@[simp] theorem State.setMem_v (a : Memory) : (s.setMem a).v = s.v := rfl
@[simp] theorem State.setMem_i (a : Memory) : (s.setMem a).i = s.i := rfl
@[simp] theorem State.setMem_pc (a : Memory) : (s.setMem a).pc = s.pc := rfl
@[simp] theorem State.setMem_stack (a : Memory) : (s.setMem a).stack = s.stack := rfl
@[simp] theorem State.setMem_sp (a : Memory) : (s.setMem a).sp = s.sp := rfl
@[simp] theorem State.setMem_dt (a : Memory) : (s.setMem a).dt = s.dt := rfl
@[simp] theorem State.setMem_st (a : Memory) : (s.setMem a).st = s.st := rfl
@[simp] theorem State.setMem_mem (a : Memory) : (s.setMem a).mem = a := rfl
@[simp] theorem State.setMem_fb (a : Memory) : (s.setMem a).fb = s.fb := rfl
@[simp] theorem State.setMem_keys (a : Memory) : (s.setMem a).keys = s.keys := rfl
@[simp] theorem State.setMem_fault (a : Memory) : (s.setMem a).fault = s.fault := rfl
@[simp] theorem State.setMem_loaded (a : Memory) : (s.setMem a).loaded = s.loaded := rfl
@[simp] theorem State.setMem_started (a : Memory) : (s.setMem a).started = s.started := rfl
@[simp] theorem State.setMem_draws (a : Memory) : (s.setMem a).draws = s.draws := rfl

@[simp] theorem State.setFb_v (a : Screen) : (s.setFb a).v = s.v := rfl
@[simp] theorem State.setFb_i (a : Screen) : (s.setFb a).i = s.i := rfl
@[simp] theorem State.setFb_pc (a : Screen) : (s.setFb a).pc = s.pc := rfl
@[simp] theorem State.setFb_stack (a : Screen) : (s.setFb a).stack = s.stack := rfl
@[simp] theorem State.setFb_sp (a : Screen) : (s.setFb a).sp = s.sp := rfl
@[simp] theorem State.setFb_dt (a : Screen) : (s.setFb a).dt = s.dt := rfl
@[simp] theorem State.setFb_st (a : Screen) : (s.setFb a).st = s.st := rfl
@[simp] theorem State.setFb_mem (a : Screen) : (s.setFb a).mem = s.mem := rfl
@[simp] theorem State.setFb_fb (a : Screen) : (s.setFb a).fb = a := rfl
@[simp] theorem State.setFb_keys (a : Screen) : (s.setFb a).keys = s.keys := rfl
@[simp] theorem State.setFb_fault (a : Screen) : (s.setFb a).fault = s.fault := rfl
@[simp] theorem State.setFb_loaded (a : Screen) : (s.setFb a).loaded = s.loaded := rfl
@[simp] theorem State.setFb_started (a : Screen) : (s.setFb a).started = s.started := rfl
@[simp] theorem State.setFb_draws (a : Screen) : (s.setFb a).draws = s.draws := rfl

@[simp] theorem State.setKeys_v (a : Vector Bool 16) : (s.setKeys a).v = s.v := rfl
@[simp] theorem State.setKeys_i (a : Vector Bool 16) : (s.setKeys a).i = s.i := rfl
@[simp] theorem State.setKeys_pc (a : Vector Bool 16) : (s.setKeys a).pc = s.pc := rfl
@[simp] theorem State.setKeys_stack (a : Vector Bool 16) : (s.setKeys a).stack = s.stack := rfl
@[simp] theorem State.setKeys_sp (a : Vector Bool 16) : (s.setKeys a).sp = s.sp := rfl
@[simp] theorem State.setKeys_dt (a : Vector Bool 16) : (s.setKeys a).dt = s.dt := rfl
@[simp] theorem State.setKeys_st (a : Vector Bool 16) : (s.setKeys a).st = s.st := rfl
@[simp] theorem State.setKeys_mem (a : Vector Bool 16) : (s.setKeys a).mem = s.mem := rfl
@[simp] theorem State.setKeys_fb (a : Vector Bool 16) : (s.setKeys a).fb = s.fb := rfl
@[simp] theorem State.setKeys_keys (a : Vector Bool 16) : (s.setKeys a).keys = a := rfl
@[simp] theorem State.setKeys_fault (a : Vector Bool 16) : (s.setKeys a).fault = s.fault := rfl
@[simp] theorem State.setKeys_loaded (a : Vector Bool 16) : (s.setKeys a).loaded = s.loaded := rfl
@[simp] theorem State.setKeys_started (a : Vector Bool 16) : (s.setKeys a).started = s.started := rfl
@[simp] theorem State.setKeys_draws (a : Vector Bool 16) : (s.setKeys a).draws = s.draws := rfl

@[simp] theorem State.setFault_v (a : Option FaultRecord) : (s.setFault a).v = s.v := rfl
@[simp] theorem State.setFault_i (a : Option FaultRecord) : (s.setFault a).i = s.i := rfl
@[simp] theorem State.setFault_pc (a : Option FaultRecord) : (s.setFault a).pc = s.pc := rfl
@[simp] theorem State.setFault_stack (a : Option FaultRecord) : (s.setFault a).stack = s.stack := rfl
@[simp] theorem State.setFault_sp (a : Option FaultRecord) : (s.setFault a).sp = s.sp := rfl
@[simp] theorem State.setFault_dt (a : Option FaultRecord) : (s.setFault a).dt = s.dt := rfl
@[simp] theorem State.setFault_st (a : Option FaultRecord) : (s.setFault a).st = s.st := rfl
@[simp] theorem State.setFault_mem (a : Option FaultRecord) : (s.setFault a).mem = s.mem := rfl
@[simp] theorem State.setFault_fb (a : Option FaultRecord) : (s.setFault a).fb = s.fb := rfl
@[simp] theorem State.setFault_keys (a : Option FaultRecord) : (s.setFault a).keys = s.keys := rfl
@[simp] theorem State.setFault_fault (a : Option FaultRecord) : (s.setFault a).fault = a := rfl
@[simp] theorem State.setFault_loaded (a : Option FaultRecord) : (s.setFault a).loaded = s.loaded := rfl
@[simp] theorem State.setFault_started (a : Option FaultRecord) : (s.setFault a).started = s.started := rfl
@[simp] theorem State.setFault_draws (a : Option FaultRecord) : (s.setFault a).draws = s.draws := rfl

@[simp] theorem State.setLoaded_v (a : Bool) : (s.setLoaded a).v = s.v := rfl
@[simp] theorem State.setLoaded_i (a : Bool) : (s.setLoaded a).i = s.i := rfl
@[simp] theorem State.setLoaded_pc (a : Bool) : (s.setLoaded a).pc = s.pc := rfl
@[simp] theorem State.setLoaded_stack (a : Bool) : (s.setLoaded a).stack = s.stack := rfl
@[simp] theorem State.setLoaded_sp (a : Bool) : (s.setLoaded a).sp = s.sp := rfl
@[simp] theorem State.setLoaded_dt (a : Bool) : (s.setLoaded a).dt = s.dt := rfl
@[simp] theorem State.setLoaded_st (a : Bool) : (s.setLoaded a).st = s.st := rfl
@[simp] theorem State.setLoaded_mem (a : Bool) : (s.setLoaded a).mem = s.mem := rfl
@[simp] theorem State.setLoaded_fb (a : Bool) : (s.setLoaded a).fb = s.fb := rfl
@[simp] theorem State.setLoaded_keys (a : Bool) : (s.setLoaded a).keys = s.keys := rfl
@[simp] theorem State.setLoaded_fault (a : Bool) : (s.setLoaded a).fault = s.fault := rfl
@[simp] theorem State.setLoaded_loaded (a : Bool) : (s.setLoaded a).loaded = a := rfl
@[simp] theorem State.setLoaded_started (a : Bool) : (s.setLoaded a).started = s.started := rfl
@[simp] theorem State.setLoaded_draws (a : Bool) : (s.setLoaded a).draws = s.draws := rfl

@[simp] theorem State.setStarted_v (a : Bool) : (s.setStarted a).v = s.v := rfl
@[simp] theorem State.setStarted_i (a : Bool) : (s.setStarted a).i = s.i := rfl
@[simp] theorem State.setStarted_pc (a : Bool) : (s.setStarted a).pc = s.pc := rfl
@[simp] theorem State.setStarted_stack (a : Bool) : (s.setStarted a).stack = s.stack := rfl
@[simp] theorem State.setStarted_sp (a : Bool) : (s.setStarted a).sp = s.sp := rfl
@[simp] theorem State.setStarted_dt (a : Bool) : (s.setStarted a).dt = s.dt := rfl
@[simp] theorem State.setStarted_st (a : Bool) : (s.setStarted a).st = s.st := rfl
@[simp] theorem State.setStarted_mem (a : Bool) : (s.setStarted a).mem = s.mem := rfl
@[simp] theorem State.setStarted_fb (a : Bool) : (s.setStarted a).fb = s.fb := rfl
@[simp] theorem State.setStarted_keys (a : Bool) : (s.setStarted a).keys = s.keys := rfl
@[simp] theorem State.setStarted_fault (a : Bool) : (s.setStarted a).fault = s.fault := rfl
@[simp] theorem State.setStarted_loaded (a : Bool) : (s.setStarted a).loaded = s.loaded := rfl
@[simp] theorem State.setStarted_started (a : Bool) : (s.setStarted a).started = a := rfl
@[simp] theorem State.setStarted_draws (a : Bool) : (s.setStarted a).draws = s.draws := rfl

@[simp] theorem State.setDraws_v (a : Nat) : (s.setDraws a).v = s.v := rfl
@[simp] theorem State.setDraws_i (a : Nat) : (s.setDraws a).i = s.i := rfl
@[simp] theorem State.setDraws_pc (a : Nat) : (s.setDraws a).pc = s.pc := rfl
@[simp] theorem State.setDraws_stack (a : Nat) : (s.setDraws a).stack = s.stack := rfl
@[simp] theorem State.setDraws_sp (a : Nat) : (s.setDraws a).sp = s.sp := rfl
@[simp] theorem State.setDraws_dt (a : Nat) : (s.setDraws a).dt = s.dt := rfl
@[simp] theorem State.setDraws_st (a : Nat) : (s.setDraws a).st = s.st := rfl
@[simp] theorem State.setDraws_mem (a : Nat) : (s.setDraws a).mem = s.mem := rfl
@[simp] theorem State.setDraws_fb (a : Nat) : (s.setDraws a).fb = s.fb := rfl
@[simp] theorem State.setDraws_keys (a : Nat) : (s.setDraws a).keys = s.keys := rfl
@[simp] theorem State.setDraws_fault (a : Nat) : (s.setDraws a).fault = s.fault := rfl
@[simp] theorem State.setDraws_loaded (a : Nat) : (s.setDraws a).loaded = s.loaded := rfl
@[simp] theorem State.setDraws_started (a : Nat) : (s.setDraws a).started = s.started := rfl
@[simp] theorem State.setDraws_draws (a : Nat) : (s.setDraws a).draws = a := rfl

end Sys2Proof.Machine
end

