-- ==== Sys2Proof/Laws/Ops.lean ====
section
/-! SUPPORT. What the shared operations over registers, PC, the stack and the latch do: each sets what it says and
leaves every other part of the state. -/

namespace Sys2Proof.Machine

variable (s : State)

/-! ### V registers -/

/-- A write is read back, and every other register keeps its value. -/
@[simp] theorem State.readV_writeV (x : Reg) (b : Byte) (r : Reg) :
    (s.writeV x b).readV r = if r = x then b else s.readV r := by
  by_cases h : r = x
  · subst h; simp [State.readV, State.writeV]
  · have h' : x.val ≠ r.val := fun e => h (Fin.eq_of_val_eq e.symm)
    simp [State.readV, State.writeV, h, h']

/-- Result, then flag (42_alu.md R152): VF holds the flag whatever x is, V[x] the result unless x = F. -/
@[simp] theorem State.readV_writeResultThenFlag (x : Reg) (b : Byte) (f : Bool) (r : Reg) :
    (s.writeResultThenFlag x b f).readV r = if r = vF then flagByte f else if r = x then b else s.readV r := by
  simp [State.writeResultThenFlag, State.writeFlag]

@[simp] theorem State.writeV_i (x : Reg) (b : Byte) : (s.writeV x b).i = s.i := rfl
@[simp] theorem State.writeFlag_i (f : Bool) : (s.writeFlag f).i = s.i := rfl
@[simp] theorem State.writeResultThenFlag_i (x : Reg) (b : Byte) (f : Bool) :
    (s.writeResultThenFlag x b f).i = s.i := rfl
@[simp] theorem State.writeV_pc (x : Reg) (b : Byte) : (s.writeV x b).pc = s.pc := rfl
@[simp] theorem State.writeFlag_pc (f : Bool) : (s.writeFlag f).pc = s.pc := rfl
@[simp] theorem State.writeResultThenFlag_pc (x : Reg) (b : Byte) (f : Bool) :
    (s.writeResultThenFlag x b f).pc = s.pc := rfl
@[simp] theorem State.writeV_stack (x : Reg) (b : Byte) : (s.writeV x b).stack = s.stack := rfl
@[simp] theorem State.writeFlag_stack (f : Bool) : (s.writeFlag f).stack = s.stack := rfl
@[simp] theorem State.writeResultThenFlag_stack (x : Reg) (b : Byte) (f : Bool) :
    (s.writeResultThenFlag x b f).stack = s.stack := rfl
@[simp] theorem State.writeV_sp (x : Reg) (b : Byte) : (s.writeV x b).sp = s.sp := rfl
@[simp] theorem State.writeFlag_sp (f : Bool) : (s.writeFlag f).sp = s.sp := rfl
@[simp] theorem State.writeResultThenFlag_sp (x : Reg) (b : Byte) (f : Bool) :
    (s.writeResultThenFlag x b f).sp = s.sp := rfl
@[simp] theorem State.writeV_dt (x : Reg) (b : Byte) : (s.writeV x b).dt = s.dt := rfl
@[simp] theorem State.writeFlag_dt (f : Bool) : (s.writeFlag f).dt = s.dt := rfl
@[simp] theorem State.writeResultThenFlag_dt (x : Reg) (b : Byte) (f : Bool) :
    (s.writeResultThenFlag x b f).dt = s.dt := rfl
@[simp] theorem State.writeV_st (x : Reg) (b : Byte) : (s.writeV x b).st = s.st := rfl
@[simp] theorem State.writeFlag_st (f : Bool) : (s.writeFlag f).st = s.st := rfl
@[simp] theorem State.writeResultThenFlag_st (x : Reg) (b : Byte) (f : Bool) :
    (s.writeResultThenFlag x b f).st = s.st := rfl
@[simp] theorem State.writeV_mem (x : Reg) (b : Byte) : (s.writeV x b).mem = s.mem := rfl
@[simp] theorem State.writeFlag_mem (f : Bool) : (s.writeFlag f).mem = s.mem := rfl
@[simp] theorem State.writeResultThenFlag_mem (x : Reg) (b : Byte) (f : Bool) :
    (s.writeResultThenFlag x b f).mem = s.mem := rfl
@[simp] theorem State.writeV_fb (x : Reg) (b : Byte) : (s.writeV x b).fb = s.fb := rfl
@[simp] theorem State.writeFlag_fb (f : Bool) : (s.writeFlag f).fb = s.fb := rfl
@[simp] theorem State.writeResultThenFlag_fb (x : Reg) (b : Byte) (f : Bool) :
    (s.writeResultThenFlag x b f).fb = s.fb := rfl
@[simp] theorem State.writeV_keys (x : Reg) (b : Byte) : (s.writeV x b).keys = s.keys := rfl
@[simp] theorem State.writeFlag_keys (f : Bool) : (s.writeFlag f).keys = s.keys := rfl
@[simp] theorem State.writeResultThenFlag_keys (x : Reg) (b : Byte) (f : Bool) :
    (s.writeResultThenFlag x b f).keys = s.keys := rfl
@[simp] theorem State.writeV_fault (x : Reg) (b : Byte) : (s.writeV x b).fault = s.fault := rfl
@[simp] theorem State.writeFlag_fault (f : Bool) : (s.writeFlag f).fault = s.fault := rfl
@[simp] theorem State.writeResultThenFlag_fault (x : Reg) (b : Byte) (f : Bool) :
    (s.writeResultThenFlag x b f).fault = s.fault := rfl
@[simp] theorem State.writeV_loaded (x : Reg) (b : Byte) : (s.writeV x b).loaded = s.loaded := rfl
@[simp] theorem State.writeFlag_loaded (f : Bool) : (s.writeFlag f).loaded = s.loaded := rfl
@[simp] theorem State.writeResultThenFlag_loaded (x : Reg) (b : Byte) (f : Bool) :
    (s.writeResultThenFlag x b f).loaded = s.loaded := rfl
@[simp] theorem State.writeV_started (x : Reg) (b : Byte) : (s.writeV x b).started = s.started := rfl
@[simp] theorem State.writeFlag_started (f : Bool) : (s.writeFlag f).started = s.started := rfl
@[simp] theorem State.writeResultThenFlag_started (x : Reg) (b : Byte) (f : Bool) :
    (s.writeResultThenFlag x b f).started = s.started := rfl
@[simp] theorem State.writeV_draws (x : Reg) (b : Byte) : (s.writeV x b).draws = s.draws := rfl
@[simp] theorem State.writeFlag_draws (f : Bool) : (s.writeFlag f).draws = s.draws := rfl
@[simp] theorem State.writeResultThenFlag_draws (x : Reg) (b : Byte) (f : Bool) :
    (s.writeResultThenFlag x b f).draws = s.draws := rfl

@[simp] theorem State.readV_writeFlag (f : Bool) (r : Reg) :
    (s.writeFlag f).readV r = if r = vF then flagByte f else s.readV r := by
  simp [State.writeFlag]

/-! ### Other updates leave the V registers -/

@[simp] theorem State.readV_setI (a : Word) (r : Reg) : (s.setI a).readV r = s.readV r := rfl
@[simp] theorem State.readV_setPc (a : Word) (r : Reg) : (s.setPc a).readV r = s.readV r := rfl
@[simp] theorem State.readV_setStack (a : Vector Word 16) (r : Reg) : (s.setStack a).readV r = s.readV r := rfl
@[simp] theorem State.readV_setSp (a : Fin 17) (r : Reg) : (s.setSp a).readV r = s.readV r := rfl
@[simp] theorem State.readV_setDt (a : Byte) (r : Reg) : (s.setDt a).readV r = s.readV r := rfl
@[simp] theorem State.readV_setSt (a : Byte) (r : Reg) : (s.setSt a).readV r = s.readV r := rfl
@[simp] theorem State.readV_setMem (a : Memory) (r : Reg) : (s.setMem a).readV r = s.readV r := rfl
@[simp] theorem State.readV_setFb (a : Screen) (r : Reg) : (s.setFb a).readV r = s.readV r := rfl
@[simp] theorem State.readV_setKeys (a : Vector Bool 16) (r : Reg) : (s.setKeys a).readV r = s.readV r := rfl
@[simp] theorem State.readV_setFault (a : Option FaultRecord) (r : Reg) : (s.setFault a).readV r = s.readV r := rfl
@[simp] theorem State.readV_setLoaded (a : Bool) (r : Reg) : (s.setLoaded a).readV r = s.readV r := rfl
@[simp] theorem State.readV_setStarted (a : Bool) (r : Reg) : (s.setStarted a).readV r = s.readV r := rfl
@[simp] theorem State.readV_setDraws (a : Nat) (r : Reg) : (s.setDraws a).readV r = s.readV r := rfl

/-- All sixteen registers written at once. -/
@[simp] theorem State.readV_setV_ofFn (f : Fin 16 → Byte) (r : Reg) : (s.setV (Vector.ofFn f)).readV r = f r := by
  simp [State.readV]

@[simp] theorem State.readV_skipIf (c : Bool) (r : Reg) : (s.skipIf c).readV r = s.readV r := by cases c <;> rfl
@[simp] theorem State.readV_repeatInstr (r : Reg) : s.repeatInstr.readV r = s.readV r := rfl
@[simp] theorem State.readV_afterFetch (r : Reg) : s.afterFetch.readV r = s.readV r := rfl

/-! ### PC -/

@[simp] theorem State.skipIf_pc (c : Bool) : (s.skipIf c).pc = if c then s.pc + 2 else s.pc := by
  cases c <;> rfl

@[simp] theorem State.repeatInstr_pc : s.repeatInstr.pc = s.pc - 2 := rfl

@[simp] theorem State.afterFetch_pc : s.afterFetch.pc = s.pc + 2 := rfl

@[simp] theorem State.afterFetch_started : s.afterFetch.started = true := rfl

@[simp] theorem State.skipIf_v (c : Bool) : (s.skipIf c).v = s.v := by cases c <;> rfl
@[simp] theorem State.repeatInstr_v : s.repeatInstr.v = s.v := rfl
@[simp] theorem State.afterFetch_v : s.afterFetch.v = s.v := rfl
@[simp] theorem State.skipIf_i (c : Bool) : (s.skipIf c).i = s.i := by cases c <;> rfl
@[simp] theorem State.repeatInstr_i : s.repeatInstr.i = s.i := rfl
@[simp] theorem State.afterFetch_i : s.afterFetch.i = s.i := rfl
@[simp] theorem State.skipIf_stack (c : Bool) : (s.skipIf c).stack = s.stack := by cases c <;> rfl
@[simp] theorem State.repeatInstr_stack : s.repeatInstr.stack = s.stack := rfl
@[simp] theorem State.afterFetch_stack : s.afterFetch.stack = s.stack := rfl
@[simp] theorem State.skipIf_sp (c : Bool) : (s.skipIf c).sp = s.sp := by cases c <;> rfl
@[simp] theorem State.repeatInstr_sp : s.repeatInstr.sp = s.sp := rfl
@[simp] theorem State.afterFetch_sp : s.afterFetch.sp = s.sp := rfl
@[simp] theorem State.skipIf_dt (c : Bool) : (s.skipIf c).dt = s.dt := by cases c <;> rfl
@[simp] theorem State.repeatInstr_dt : s.repeatInstr.dt = s.dt := rfl
@[simp] theorem State.afterFetch_dt : s.afterFetch.dt = s.dt := rfl
@[simp] theorem State.skipIf_st (c : Bool) : (s.skipIf c).st = s.st := by cases c <;> rfl
@[simp] theorem State.repeatInstr_st : s.repeatInstr.st = s.st := rfl
@[simp] theorem State.afterFetch_st : s.afterFetch.st = s.st := rfl
@[simp] theorem State.skipIf_mem (c : Bool) : (s.skipIf c).mem = s.mem := by cases c <;> rfl
@[simp] theorem State.repeatInstr_mem : s.repeatInstr.mem = s.mem := rfl
@[simp] theorem State.afterFetch_mem : s.afterFetch.mem = s.mem := rfl
@[simp] theorem State.skipIf_fb (c : Bool) : (s.skipIf c).fb = s.fb := by cases c <;> rfl
@[simp] theorem State.repeatInstr_fb : s.repeatInstr.fb = s.fb := rfl
@[simp] theorem State.afterFetch_fb : s.afterFetch.fb = s.fb := rfl
@[simp] theorem State.skipIf_keys (c : Bool) : (s.skipIf c).keys = s.keys := by cases c <;> rfl
@[simp] theorem State.repeatInstr_keys : s.repeatInstr.keys = s.keys := rfl
@[simp] theorem State.afterFetch_keys : s.afterFetch.keys = s.keys := rfl
@[simp] theorem State.skipIf_fault (c : Bool) : (s.skipIf c).fault = s.fault := by cases c <;> rfl
@[simp] theorem State.repeatInstr_fault : s.repeatInstr.fault = s.fault := rfl
@[simp] theorem State.afterFetch_fault : s.afterFetch.fault = s.fault := rfl
@[simp] theorem State.skipIf_loaded (c : Bool) : (s.skipIf c).loaded = s.loaded := by cases c <;> rfl
@[simp] theorem State.repeatInstr_loaded : s.repeatInstr.loaded = s.loaded := rfl
@[simp] theorem State.afterFetch_loaded : s.afterFetch.loaded = s.loaded := rfl
@[simp] theorem State.skipIf_started (c : Bool) : (s.skipIf c).started = s.started := by cases c <;> rfl
@[simp] theorem State.repeatInstr_started : s.repeatInstr.started = s.started := rfl
@[simp] theorem State.skipIf_draws (c : Bool) : (s.skipIf c).draws = s.draws := by cases c <;> rfl
@[simp] theorem State.repeatInstr_draws : s.repeatInstr.draws = s.draws := rfl
@[simp] theorem State.afterFetch_draws : s.afterFetch.draws = s.draws := rfl

/-! ### Taking a fault (60_exceptions.md R236) -/

section raise

variable (c : Cause) (a : Word) (w : Option Word) (ad : Option Nat)

@[simp] theorem State.raise_pc : (s.raise c a w ad).pc = a := rfl

@[simp] theorem State.raise_started : (s.raise c a w ad).started = true := rfl

@[simp] theorem State.raise_fault : (s.raise c a w ad).fault = some ⟨c, a, w, ad⟩ := rfl

@[simp] theorem State.raise_v : (s.raise c a w ad).v = s.v := rfl
@[simp] theorem State.raise_i : (s.raise c a w ad).i = s.i := rfl
@[simp] theorem State.raise_stack : (s.raise c a w ad).stack = s.stack := rfl
@[simp] theorem State.raise_sp : (s.raise c a w ad).sp = s.sp := rfl
@[simp] theorem State.raise_dt : (s.raise c a w ad).dt = s.dt := rfl
@[simp] theorem State.raise_st : (s.raise c a w ad).st = s.st := rfl
@[simp] theorem State.raise_mem : (s.raise c a w ad).mem = s.mem := rfl
@[simp] theorem State.raise_fb : (s.raise c a w ad).fb = s.fb := rfl
@[simp] theorem State.raise_keys : (s.raise c a w ad).keys = s.keys := rfl
@[simp] theorem State.raise_loaded : (s.raise c a w ad).loaded = s.loaded := rfl
@[simp] theorem State.raise_draws : (s.raise c a w ad).draws = s.draws := rfl

@[simp] theorem State.readV_raise (r : Reg) : (s.raise c a w ad).readV r = s.readV r := rfl

/-- Everything taking a fault does. -/
theorem State.raise_eq :
    s.raise c a w ad = { s with pc := a, started := true, fault := some ⟨c, a, w, ad⟩ } := rfl

end raise

/-! ### The call stack (10_state.md R29) -/

/-- Everything a push does, when an entry is free. -/
theorem State.push_of_lt (value : Word) (h : s.sp.val < 16) :
    s.push value = some ((s.setStack (s.stack.set s.sp.val value h)).setSp ⟨s.sp.val + 1, by omega⟩) := by
  simp [State.push, h]

/-- A push fails exactly when all 16 entries are in use. -/
theorem State.push_eq_none (value : Word) : s.push value = none ↔ s.sp.val = 16 := by
  have := s.sp.isLt
  unfold State.push
  split <;> simp <;> omega

/-- Everything a pop does, when an entry is in use. -/
theorem State.pop_of_pos (h : 0 < s.sp.val) :
    s.pop = some (s.stack[s.sp.val - 1]'(by omega), s.setSp ⟨s.sp.val - 1, by omega⟩) := by
  simp [State.pop, h]

/-- A pop fails exactly when no entry is in use. -/
theorem State.pop_eq_none : s.pop = none ↔ s.sp.val = 0 := by
  unfold State.pop
  split <;> simp <;> omega

/-! ### The keypad (45_keypad.md R203, R204) -/

/-- The key found is pressed, and no key below it is. -/
theorem firstPressed_eq_some {keys : Vector Bool 16} {k : Fin 16} :
    firstPressed keys = some k ↔ keys[k] = true ∧ ∀ j : Fin 16, j < k → keys[j] = false := by
  unfold firstPressed
  rw [List.find?_eq_some_iff_getElem]
  constructor
  · rintro ⟨hk, i, hi, rfl, hj⟩
    refine ⟨by simpa using hk, fun j hj' => ?_⟩
    have hlt : j.val < i := by simpa [Fin.lt_def] using hj'
    simpa using hj j.val hlt
  · rintro ⟨hk, hj⟩
    refine ⟨by simpa using hk, k.val, by simp, by simp, fun j hj' => ?_⟩
    simpa using hj ⟨j, by omega⟩ hj'

/-- No key is found exactly when none is pressed. -/
theorem firstPressed_eq_none {keys : Vector Bool 16} :
    firstPressed keys = none ↔ ∀ k : Fin 16, keys[k] = false := by
  simp [firstPressed, List.find?_eq_none]

/-! ### The tick (40_control_flow.md R120) -/

/-- Everything a tick can do: a halted block answers the latched record; the fetch faults; the word is undefined; or
the decoded instruction runs on the state the fetch leaves. -/
theorem tickWith_cases (run : Instr → State → Result) :
    (∃ r, s.fault = some r ∧ tickWith run s = .fault (.halted r)) ∨
    (s.fault = none ∧ 0xFFE < s.pc.toNat ∧
      tickWith run s = .next (s.raise .memoryOutOfRange s.pc none (some (max s.pc.toNat 0x1000)))) ∨
    (∃ w, s.fault = none ∧ s.pc.toNat ≤ 0xFFE ∧ s.fetch = .ok w ∧ decodeWord w = none ∧
      tickWith run s = .next (s.raise .undefinedInstruction s.pc (some w) none)) ∨
    (∃ w i, s.fault = none ∧ s.pc.toNat ≤ 0xFFE ∧ s.fetch = .ok w ∧ decodeWord w = some i ∧
      tickWith run s = run i s.afterFetch) := by
  cases hf : s.fault with
  | some r => exact .inl ⟨r, rfl, by simp [tickWith, hf]⟩
  | none =>
    by_cases hp : s.pc.toNat ≤ 0xFFE
    · have hw : s.fetch = .ok (wordOfBytes (s.mem.readByte s.pc.toNat) (s.mem.readByte (s.pc.toNat + 1))) := by
        simp [State.fetch, Memory.read2_eq, hp]
      cases hd : decodeWord (wordOfBytes (s.mem.readByte s.pc.toNat) (s.mem.readByte (s.pc.toNat + 1))) with
      | none => exact .inr (.inr (.inl ⟨_, rfl, hp, hw, hd, by simp [tickWith, hf, hw, hd]⟩))
      | some i => exact .inr (.inr (.inr ⟨_, i, rfl, hp, hw, hd, by simp [tickWith, hf, hw, hd]⟩))
    · refine .inr (.inl ⟨rfl, by omega, ?_⟩)
      simp [tickWith, hf, State.fetch, Memory.read2_eq, hp]

end Sys2Proof.Machine
end

