-- ==== Sys2Proof/Laws/Draw.lean ====
section
/-! SUPPORT. What a sprite draw does, said once and without the order of the loop (44_draw.md R193: the pixels one
draw touches are distinct, so each is tested and flipped at most once). -/

namespace Sys2Proof.Machine

/-! ### One pixel -/

/-- The pixel flipped is inverted, and every other pixel is unchanged. -/
@[simp] theorem Screen.pixel_flip (fb : Screen) (y y' : Fin 32) (x x' : Fin 64) :
    (fb.flip y x).pixel y' x' = if y' = y ∧ x' = x then !fb.pixel y x else fb.pixel y' x' := by
  by_cases hy : y' = y
  · subst hy
    by_cases hx : x' = x
    · subst hx; simp [Screen.pixel, Screen.flip]
    · have : x.val ≠ x'.val := fun e => hx (Fin.eq_of_val_eq e.symm)
      simp [Screen.pixel, Screen.flip, hx, this]
  · have : y.val ≠ y'.val := fun e => hy (Fin.eq_of_val_eq e.symm)
    simp [Screen.pixel, Screen.flip, hy, this]

@[simp] theorem Screen.pixel_clear (y : Fin 32) (x : Fin 64) : Screen.clear.pixel y x = false := by
  simp [Screen.pixel, Screen.clear]

/-- Screens that agree pixel by pixel are equal. -/
theorem Screen.eq_of_pixel_eq {fb fb' : Screen} (h : ∀ y x, fb.pixel y x = fb'.pixel y x) : fb = fb' := by
  apply Vector.ext
  intro y hy
  apply Vector.ext
  intro x hx
  exact h ⟨y, hy⟩ ⟨x, hx⟩

/-- Pixel (x, y) is element `y*64 + x` of the row-major sequence (10_state.md R32). -/
theorem Screen.rowMajor_getD (fb : Screen) (y : Fin 32) (x : Fin 64) :
    fb.rowMajor.getD (y.val * 64 + x.val) false = fb.pixel y x := by
  have hk : y.val * 64 + x.val < 2048 := by omega
  have hy : (⟨(y.val * 64 + x.val) / 64, by omega⟩ : Fin 32) = y := Fin.eq_of_val_eq (by show _ / 64 = _; omega)
  have hx : (⟨(y.val * 64 + x.val) % 64, by omega⟩ : Fin 64) = x := Fin.eq_of_val_eq (by show _ % 64 = _; omega)
  rw [Screen.rowMajor, List.getD_eq_getElem _ _ (by rw [List.length_ofFn]; exact hk), List.getElem_ofFn, hy, hx]

/-! ### A list of pixels -/

/-- Test, then flip, one pixel. -/
def touch (p : Screen × Bool) (t : Fin 32 × Fin 64) : Screen × Bool :=
  (p.1.flip t.1 t.2, p.2 || p.1.pixel t.1 t.2)

/-- Touching distinct pixels inverts exactly those, and the flag is raised exactly if one of them was lit before. -/
theorem touch_all {ts : List (Fin 32 × Fin 64)} (h : ts.Nodup) (p : Screen × Bool) :
    (∀ y x, (ts.foldl touch p).1.pixel y x = xor (p.1.pixel y x) (decide ((y, x) ∈ ts))) ∧
    ((ts.foldl touch p).2 = true ↔ p.2 = true ∨ ∃ t ∈ ts, p.1.pixel t.1 t.2 = true) := by
  induction ts generalizing p with
  | nil => simp
  | cons t ts ih =>
    obtain ⟨ht, hts⟩ := List.nodup_cons.mp h
    obtain ⟨ih1, ih2⟩ := ih hts (touch p t)
    refine ⟨fun y x => ?_, ?_⟩
    · rw [List.foldl_cons, ih1]
      by_cases he : (y, x) = t
      · subst he; simp [touch, ht]
      · have he' : ¬ (y = t.1 ∧ x = t.2) := fun e => he (Prod.ext e.1 e.2)
        simp [touch, he, he']
    · rw [List.foldl_cons, ih2]
      have hne : ∀ u ∈ ts, (touch p t).1.pixel u.1 u.2 = p.1.pixel u.1 u.2 := by
        intro u hu
        have : ¬ (u.1 = t.1 ∧ u.2 = t.2) := fun e => ht (by rwa [← Prod.ext e.1 e.2])
        simp [touch, this]
      constructor
      · rintro (hf | ⟨u, hu, hl⟩)
        · simp only [touch, Bool.or_eq_true] at hf
          rcases hf with hf | hf
          · exact .inl hf
          · exact .inr ⟨t, by simp, hf⟩
        · exact .inr ⟨u, by simp [hu], by rwa [← hne u hu]⟩
      · rintro (hf | ⟨u, hu, hl⟩)
        · exact .inl (by simp [touch, hf])
        · rcases List.mem_cons.mp hu with rfl | hu
          · exact .inl (by simp [touch, hl])
          · exact .inr ⟨u, hu, by rwa [hne u hu]⟩

/-! ### The pixels of a sprite -/

/-- The pixels of one row whose sprite bit is set. -/
def rowTargets (b x0 : Byte) (y : Fin 32) : List (Fin 32 × Fin 64) :=
  ((List.range 8).filter (spriteBit b)).map fun c => (y, drawColumn x0 c)

/-- The pixels of the rows from row number `r` on. -/
def spriteTargets (x0 y0 : Byte) : Nat → List Byte → List (Fin 32 × Fin 64)
  | _, [] => []
  | r, b :: bs => rowTargets b x0 (drawRow y0 r) ++ spriteTargets x0 y0 (r + 1) bs

theorem drawRowBits_eq (b x0 : Byte) (y : Fin 32) (p : Screen × Bool) :
    drawRowBits b x0 y p = (rowTargets b x0 y).foldl touch p := by
  unfold drawRowBits rowTargets
  rw [List.foldl_map, List.foldl_filter]
  rfl

theorem drawRows_eq (x0 y0 : Byte) (rows : List Byte) (r : Nat) (p : Screen × Bool) :
    drawRows x0 y0 r rows p = (spriteTargets x0 y0 r rows).foldl touch p := by
  induction rows generalizing r p with
  | nil => rfl
  | cons b bs ih => rw [drawRows, ih, drawRowBits_eq, spriteTargets, List.foldl_append]

theorem drawColumn_inj {x0 : Byte} {c c' : Nat} (hc : c < 8) (hc' : c' < 8)
    (h : drawColumn x0 c = drawColumn x0 c') : c = c' := by
  have := congrArg Fin.val h
  simp only [drawColumn, Fin.val_ofNat] at this
  omega

theorem drawRow_inj {y0 : Byte} {r r' : Nat} (hr : r < 32) (hr' : r' < 32)
    (h : drawRow y0 r = drawRow y0 r') : r = r' := by
  have := congrArg Fin.val h
  simp only [drawRow, Fin.val_ofNat] at this
  omega

theorem mem_rowTargets {b x0 : Byte} {y y' : Fin 32} {x : Fin 64} :
    (y', x) ∈ rowTargets b x0 y ↔ y' = y ∧ ∃ c, c < 8 ∧ spriteBit b c = true ∧ x = drawColumn x0 c := by
  simp only [rowTargets, List.mem_map, List.mem_filter, List.mem_range, Prod.mk.injEq]
  constructor
  · rintro ⟨c, ⟨hc, hb⟩, rfl, rfl⟩
    exact ⟨rfl, c, hc, hb, rfl⟩
  · rintro ⟨rfl, c, hc, hb, rfl⟩
    exact ⟨c, ⟨hc, hb⟩, rfl, rfl⟩

theorem mem_spriteTargets {x0 y0 : Byte} {rows : List Byte} {r : Nat} {y : Fin 32} {x : Fin 64} :
    (y, x) ∈ spriteTargets x0 y0 r rows ↔
      ∃ k c, k < rows.length ∧ c < 8 ∧ spriteBit (rows.getD k 0) c = true ∧
        y = drawRow y0 (r + k) ∧ x = drawColumn x0 c := by
  induction rows generalizing r with
  | nil => simp [spriteTargets]
  | cons b bs ih =>
    rw [spriteTargets, List.mem_append, mem_rowTargets, ih]
    constructor
    · rintro (⟨rfl, c, hc, hb, rfl⟩ | ⟨k, c, hk, hc, hb, rfl, rfl⟩)
      · exact ⟨0, c, by simp, hc, by simpa using hb, rfl, rfl⟩
      · exact ⟨k + 1, c, by simpa using hk, hc, by simpa using hb, by congr 1; omega, rfl⟩
    · rintro ⟨k, c, hk, hc, hb, rfl, rfl⟩
      cases k with
      | zero => exact .inl ⟨rfl, c, hc, by simpa using hb, rfl⟩
      | succ k => exact .inr ⟨k, c, by simpa using hk, hc, by simpa using hb, by congr 1; omega, rfl⟩

theorem spriteTargets_nodup {x0 y0 : Byte} {rows : List Byte} {r : Nat} (h : r + rows.length ≤ 32) :
    (spriteTargets x0 y0 r rows).Nodup := by
  induction rows generalizing r with
  | nil => simp [spriteTargets]
  | cons b bs ih =>
    simp only [List.length_cons] at h
    rw [spriteTargets, List.nodup_append]
    refine ⟨?_, ih (by omega), ?_⟩
    · refine List.Nodup.map_on ?_ (List.nodup_range.filter _)
      intro c hc c' hc' he
      simp only [List.mem_filter, List.mem_range] at hc hc'
      exact drawColumn_inj hc.1 hc'.1 (Prod.mk.inj he).2
    · rintro ⟨y, x⟩ ht ⟨y', x'⟩ hu he
      obtain ⟨rfl, rfl⟩ := Prod.mk.inj he
      obtain ⟨hy, -⟩ := mem_rowTargets.mp ht
      obtain ⟨k, c, hk, -, -, hy', -⟩ := mem_spriteTargets.mp hu
      have := drawRow_inj (by omega) (by omega) (hy.symm.trans hy')
      omega

/-- Everything a draw of up to 32 rows does (44_draw.md R190, R193): it inverts exactly the pixels under a set sprite
bit, and the flag is raised exactly if one of them was lit. -/
theorem drawSprite_spec (fb : Screen) (x0 y0 : Byte) {rows : List Byte} (h : rows.length ≤ 32) :
    (∀ y x, (drawSprite fb x0 y0 rows).1.pixel y x =
      xor (fb.pixel y x) (decide ((y, x) ∈ spriteTargets x0 y0 0 rows))) ∧
    ((drawSprite fb x0 y0 rows).2 = true ↔
      ∃ t ∈ spriteTargets x0 y0 0 rows, fb.pixel t.1 t.2 = true) := by
  have := touch_all (spriteTargets_nodup (x0 := x0) (y0 := y0) (r := 0) (rows := rows) (by omega)) (fb, false)
  unfold drawSprite
  rw [drawRows_eq]
  refine ⟨this.1, this.2.trans ?_⟩
  simp

end Sys2Proof.Machine
end

