-- ==== Sys2Proof/Laws/Exec.lean ====
section
/-! SUPPORT. What `exec` answers for the instructions that can fault, one equation for each side of the fault's
condition, and what every instruction leaves alone. The other instructions' arms hold by unfolding `exec`. -/

namespace Sys2Proof.Machine

variable (s : State)

/-- The state in which a fault of the executing instruction has been taken. -/
theorem State.raiseIn_eq (i : Instr) (c : Cause) (addr : Option Nat) :
    s.raiseIn i c addr = .next (s.raise c (s.pc - 2) (some (encodeWord i)) addr) := rfl

theorem exec_call_of_lt (nnn : Imm12) (h : s.sp.val < 16) :
    exec (.call nnn) s =
      .next (((s.setStack (s.stack.set s.sp.val s.pc h)).setSp ⟨s.sp.val + 1, by omega⟩).setPc (zextImm nnn)) := by
  simp [exec, execCall, State.push_of_lt, h]

theorem exec_call_of_full (nnn : Imm12) (h : s.sp.val = 16) :
    exec (.call nnn) s = s.raiseIn (.call nnn) .stackOverflow none := by
  simp [exec, execCall, (State.push_eq_none s s.pc).mpr h]

theorem exec_ret_of_pos (h : 0 < s.sp.val) :
    exec .ret s =
      .next ((s.setSp ⟨s.sp.val - 1, by omega⟩).setPc (s.stack[s.sp.val - 1]'(by omega))) := by
  simp [exec, execRet, State.pop_of_pos, h]

theorem exec_ret_of_empty (h : s.sp.val = 0) : exec .ret s = s.raiseIn .ret .stackUnderflow none := by
  simp [exec, execRet, (State.pop_eq_none s).mpr h]

theorem exec_skp_of_lt (x : Reg) (h : (s.readV x).toNat < 16) :
    exec (.skp x) s = .next (s.skipIf s.keys[(s.readV x).toNat]) := by
  simp [exec, execSkp, h]

theorem exec_sknp_of_lt (x : Reg) (h : (s.readV x).toNat < 16) :
    exec (.sknp x) s = .next (s.skipIf (!s.keys[(s.readV x).toNat])) := by
  simp [exec, execSknp, h]

theorem exec_skp_of_ge (x : Reg) (h : ¬ (s.readV x).toNat < 16) :
    exec (.skp x) s = s.raiseIn (.skp x) .keyIndexOutOfRange (some (s.readV x).toNat) := by
  simp [exec, execSkp, h]

theorem exec_sknp_of_ge (x : Reg) (h : ¬ (s.readV x).toNat < 16) :
    exec (.sknp x) s = s.raiseIn (.sknp x) .keyIndexOutOfRange (some (s.readV x).toNat) := by
  simp [exec, execSknp, h]

/-- The four memory instructions when the range check passes, and when it does not. -/
theorem exec_drw_in (x y : Reg) (n : Fin 16) (h : outOfRange s.base n.val = none) :
    exec (.drw x y n) s =
      .next ((s.setFb (drawSprite s.fb (s.readV x) (s.readV y) (s.mem.readBlock s.base n.val)).1).writeFlag
        (drawSprite s.fb (s.readV x) (s.readV y) (s.mem.readBlock s.base n.val)).2) := by
  simp [exec, execDrw, h]

theorem exec_ldB_in (x : Reg) (h : outOfRange s.base 3 = none) :
    exec (.ldB x) s = .next (s.setMem (s.mem.writeBlock s.base (bcdDigits (s.readV x)))) := by
  simp [exec, execLdB, h]

theorem exec_storeRegs_in (x : Reg) (h : outOfRange s.base (x.val + 1) = none) :
    exec (.storeRegs x) s = .next (s.setMem (s.mem.writeBlock s.base (s.regsUpTo x))) := by
  simp [exec, execStoreRegs, blockLength, h]

theorem exec_loadRegs_in (x : Reg) (h : outOfRange s.base (x.val + 1) = none) :
    exec (.loadRegs x) s = .next (s.setV (Vector.ofFn fun r =>
      if r.val ≤ x.val then s.mem.readByte (s.base + r.val) else s.readV r)) := by
  simp [exec, execLoadRegs, blockLength, h]

theorem exec_drw_out (x y : Reg) (n : Fin 16) {bad : Nat} (h : outOfRange s.base n.val = some bad) :
    exec (.drw x y n) s = s.raiseIn (.drw x y n) .memoryOutOfRange (some bad) := by
  simp [exec, execDrw, h]

theorem exec_ldB_out (x : Reg) {bad : Nat} (h : outOfRange s.base 3 = some bad) :
    exec (.ldB x) s = s.raiseIn (.ldB x) .memoryOutOfRange (some bad) := by
  simp [exec, execLdB, h]

theorem exec_storeRegs_out (x : Reg) {bad : Nat} (h : outOfRange s.base (x.val + 1) = some bad) :
    exec (.storeRegs x) s = s.raiseIn (.storeRegs x) .memoryOutOfRange (some bad) := by
  simp [exec, execStoreRegs, blockLength, h]

theorem exec_loadRegs_out (x : Reg) {bad : Nat} (h : outOfRange s.base (x.val + 1) = some bad) :
    exec (.loadRegs x) s = s.raiseIn (.loadRegs x) .memoryOutOfRange (some bad) := by
  simp [exec, execLoadRegs, blockLength, h]

/-- Everything an instruction can answer: it commits and leaves the latch and the bookkeeping bits alone, or it takes
the fault its condition names, writing nothing else (60_exceptions.md R231, R236). -/
theorem exec_commits_or_faults (i : Instr) :
    (∃ t, exec i s = .next t ∧ t.fault = s.fault ∧ t.started = s.started ∧ t.loaded = s.loaded ∧ t.keys = s.keys ∧
      (s.sp.val = 16 → ∀ nnn, i ≠ .call nnn) ∧ (s.sp.val = 0 → i ≠ .ret) ∧
      (∀ x, i = .skp x ∨ i = .sknp x → (s.readV x).toNat < 16)) ∨
    (exec i s = s.raiseIn i .stackOverflow none ∧ s.sp.val = 16 ∧ ∃ nnn, i = .call nnn) ∨
    (exec i s = s.raiseIn i .stackUnderflow none ∧ s.sp.val = 0 ∧ i = .ret) ∨
    (∃ x, exec i s = s.raiseIn i .keyIndexOutOfRange (some (s.readV x).toNat) ∧ ¬ (s.readV x).toNat < 16 ∧
      (i = .skp x ∨ i = .sknp x)) ∨
    (∃ n bad, exec i s = s.raiseIn i .memoryOutOfRange (some bad) ∧ outOfRange s.base n = some bad ∧
      ((∃ x y m, i = .drw x y m ∧ n = m.val) ∨ (∃ x, i = .ldB x ∧ n = 3) ∨
        ∃ x, (i = .storeRegs x ∨ i = .loadRegs x) ∧ n = x.val + 1)) := by
  cases i with
  | call nnn =>
    by_cases h : s.sp.val = 16
    · exact .inr (.inl ⟨exec_call_of_full s nnn h, h, nnn, rfl⟩)
    · exact .inl ⟨_, exec_call_of_lt s nnn (by omega), rfl, rfl, rfl, rfl, by omega, by simp, by simp⟩
  | ret =>
    by_cases h : s.sp.val = 0
    · exact .inr (.inr (.inl ⟨exec_ret_of_empty s h, h, rfl⟩))
    · exact .inl ⟨_, exec_ret_of_pos s (by omega), rfl, rfl, rfl, rfl, by simp, by omega, by simp⟩
  | skp x =>
    by_cases h : (s.readV x).toNat < 16
    · exact .inl ⟨_, exec_skp_of_lt s x h, by simp, by simp, by simp, by simp, by simp, by simp, by simpa using h⟩
    · exact .inr (.inr (.inr (.inl ⟨x, exec_skp_of_ge s x h, h, .inl rfl⟩)))
  | sknp x =>
    by_cases h : (s.readV x).toNat < 16
    · exact .inl ⟨_, exec_sknp_of_lt s x h, by simp, by simp, by simp, by simp, by simp, by simp, by simpa using h⟩
    · exact .inr (.inr (.inr (.inl ⟨x, exec_sknp_of_ge s x h, h, .inr rfl⟩)))
  | drw x y n =>
    cases h : outOfRange s.base n.val with
    | none => exact .inl ⟨_, exec_drw_in s x y n h, rfl, rfl, rfl, rfl, by simp, by simp, by simp⟩
    | some bad => exact .inr (.inr (.inr (.inr ⟨_, bad, exec_drw_out s x y n h, h, .inl ⟨x, y, n, rfl, rfl⟩⟩)))
  | ldB x =>
    cases h : outOfRange s.base 3 with
    | none => exact .inl ⟨_, exec_ldB_in s x h, rfl, rfl, rfl, rfl, by simp, by simp, by simp⟩
    | some bad => exact .inr (.inr (.inr (.inr ⟨_, bad, exec_ldB_out s x h, h, .inr (.inl ⟨x, rfl, rfl⟩)⟩)))
  | storeRegs x =>
    cases h : outOfRange s.base (x.val + 1) with
    | none => exact .inl ⟨_, exec_storeRegs_in s x h, rfl, rfl, rfl, rfl, by simp, by simp, by simp⟩
    | some bad =>
      exact .inr (.inr (.inr (.inr ⟨_, bad, exec_storeRegs_out s x h, h, .inr (.inr ⟨x, .inl rfl, rfl⟩)⟩)))
  | loadRegs x =>
    cases h : outOfRange s.base (x.val + 1) with
    | none =>
      exact .inl ⟨_, exec_loadRegs_in s x h, State.setV_fault _ _, State.setV_started _ _, State.setV_loaded _ _,
        State.setV_keys _ _, by simp, by simp, by simp⟩
    | some bad =>
      exact .inr (.inr (.inr (.inr ⟨_, bad, exec_loadRegs_out s x h, h, .inr (.inr ⟨x, .inr rfl, rfl⟩)⟩)))
  | ldVxK x =>
    cases h : firstPressed s.keys with
    | none =>
      exact .inl ⟨s.repeatInstr, by simp [exec, execLdVxK, h], rfl, rfl, rfl, rfl, by simp, by simp, by simp⟩
    | some k =>
      exact .inl ⟨s.writeV x (BitVec.ofNat 8 k.val), by simp [exec, execLdVxK, h], rfl, rfl, rfl, rfl, by simp, by simp,
        by simp⟩
  | _ => exact .inl ⟨_, rfl, by simp, by simp, by simp, by simp, by simp, by simp, by simp⟩

end Sys2Proof.Machine
end

