-- ==== Sys2Proof/Laws/PerInstr.lean ====
section
/-! SUPPORT. Per-instruction laws. Family `RoundTrip`: an instruction is well formed, and the encoder's word of it
decodes to it, with every operand at every value (30_encoding.md R94, R96). -/

namespace Sys2Proof.Laws.RoundTrip

def Statement (i : Instr) : Prop := i.wellFormed = true ∧ decodeWord (encodeWord i) = some i

theorem nop : Statement .nop := ⟨rfl, by decide⟩
theorem cls : Statement .cls := ⟨rfl, by decide⟩
theorem ret : Statement .ret := ⟨rfl, by decide⟩
theorem jp (nnn : Imm12) : Statement (.jp nnn) := ⟨rfl, by simp [decodeWord, encodeWord]⟩
theorem call (nnn : Imm12) : Statement (.call nnn) := ⟨rfl, by simp [decodeWord, encodeWord]⟩
theorem seImm (x : Reg) (kk : Byte) : Statement (.seImm x kk) := ⟨rfl, by simp [decodeWord, encodeWord]⟩
theorem sneImm (x : Reg) (kk : Byte) : Statement (.sneImm x kk) := ⟨rfl, by simp [decodeWord, encodeWord]⟩
theorem seReg (x y : Reg) : Statement (.seReg x y) := ⟨rfl, by simp [decodeWord, encodeWord]⟩
theorem ldImm (x : Reg) (kk : Byte) : Statement (.ldImm x kk) := ⟨rfl, by simp [decodeWord, encodeWord]⟩
theorem addImm (x : Reg) (kk : Byte) : Statement (.addImm x kk) := ⟨rfl, by simp [decodeWord, encodeWord]⟩
theorem ldReg (x y : Reg) : Statement (.ldReg x y) := ⟨rfl, by simp [decodeWord, encodeWord]⟩
theorem orReg (x y : Reg) : Statement (.orReg x y) := ⟨rfl, by simp [decodeWord, encodeWord]⟩
theorem andReg (x y : Reg) : Statement (.andReg x y) := ⟨rfl, by simp [decodeWord, encodeWord]⟩
theorem xorReg (x y : Reg) : Statement (.xorReg x y) := ⟨rfl, by simp [decodeWord, encodeWord]⟩
theorem addReg (x y : Reg) : Statement (.addReg x y) := ⟨rfl, by simp [decodeWord, encodeWord]⟩
theorem subReg (x y : Reg) : Statement (.subReg x y) := ⟨rfl, by simp [decodeWord, encodeWord]⟩
theorem shr (x y : Reg) : Statement (.shr x y) := ⟨rfl, by simp [decodeWord, encodeWord]⟩
theorem subnReg (x y : Reg) : Statement (.subnReg x y) := ⟨rfl, by simp [decodeWord, encodeWord]⟩
theorem shl (x y : Reg) : Statement (.shl x y) := ⟨rfl, by simp [decodeWord, encodeWord]⟩
theorem sneReg (x y : Reg) : Statement (.sneReg x y) := ⟨rfl, by simp [decodeWord, encodeWord]⟩
theorem ldI (nnn : Imm12) : Statement (.ldI nnn) := ⟨rfl, by simp [decodeWord, encodeWord]⟩
theorem jpV0 (nnn : Imm12) : Statement (.jpV0 nnn) := ⟨rfl, by simp [decodeWord, encodeWord]⟩
theorem rnd (x : Reg) (kk : Byte) : Statement (.rnd x kk) := ⟨rfl, by simp [decodeWord, encodeWord]⟩
theorem drw (x y : Reg) (n : Fin 16) : Statement (.drw x y n) := ⟨rfl, by simp [decodeWord, encodeWord]⟩
theorem skp (x : Reg) : Statement (.skp x) := ⟨rfl, by simp [decodeWord, encodeWord]⟩
theorem sknp (x : Reg) : Statement (.sknp x) := ⟨rfl, by simp [decodeWord, encodeWord]⟩
theorem ldVxDt (x : Reg) : Statement (.ldVxDt x) := ⟨rfl, by simp [decodeWord, encodeWord]⟩
theorem ldVxK (x : Reg) : Statement (.ldVxK x) := ⟨rfl, by simp [decodeWord, encodeWord]⟩
theorem ldDtVx (x : Reg) : Statement (.ldDtVx x) := ⟨rfl, by simp [decodeWord, encodeWord]⟩
theorem ldStVx (x : Reg) : Statement (.ldStVx x) := ⟨rfl, by simp [decodeWord, encodeWord]⟩
theorem addI (x : Reg) : Statement (.addI x) := ⟨rfl, by simp [decodeWord, encodeWord]⟩
theorem ldF (x : Reg) : Statement (.ldF x) := ⟨rfl, by simp [decodeWord, encodeWord]⟩
theorem ldB (x : Reg) : Statement (.ldB x) := ⟨rfl, by simp [decodeWord, encodeWord]⟩
theorem storeRegs (x : Reg) : Statement (.storeRegs x) := ⟨rfl, by simp [decodeWord, encodeWord]⟩
theorem loadRegs (x : Reg) : Statement (.loadRegs x) := ⟨rfl, by simp [decodeWord, encodeWord]⟩

end Sys2Proof.Laws.RoundTrip
end

