-- ==== Sys2Proof/Tests/Slice0.lean ====
section
/-! SUPPORT. The author's tests: the smoke test of well-formedness, decodings of words written out from
30_encoding.md R96, single steps whose expected values are the vectors T<n> of 95_test_vectors.md, and for each
statement with hypotheses a state and operands that meet them (`witness_...`). -/

namespace Sys2Proof.Tests

open Sys2Proof.Machine

/-! ### Well-formedness smoke test

Every term of `Instr` is well formed by its type: the operands have the widths of the word's fields. The two
operations with a contract refuse what breaks it. -/

theorem test_wf_refuses_key_16 : (HostOp.setKey 16 true).wellFormed = false := by decide

theorem test_wf_accepts_key_15 : (HostOp.setKey 15 true).wellFormed = true := by decide

theorem test_wf_refuses_image_3585 : (HostOp.loadProgram (List.replicate 3585 0)).wellFormed = false := by
  rw [HostOp.wellFormed, List.length_replicate]; decide

theorem test_wf_accepts_image_3584 : (HostOp.loadProgram (List.replicate 3584 0)).wellFormed = true := by
  rw [HostOp.wellFormed, List.length_replicate]; decide

/-! ### Decoding: one word per constructor, written out from the patterns of R96 -/

/-- 0000, 00E0, 00EE, 1nnn, 2nnn, Bnnn -/
theorem test_decode_control_flow :
    decodeWord 0b0000000000000000 = some .nop ∧ decodeWord 0b0000000011100000 = some .cls ∧
    decodeWord 0b0000000011101110 = some .ret ∧ decodeWord 0b0001001010101000 = some (.jp 0x2A8) ∧
    decodeWord 0b0010101010111100 = some (.call 0xABC) ∧ decodeWord 0b1011111111110001 = some (.jpV0 0xFF1) := by
  decide

/-- 3xkk, 4xkk, 5xy0, 9xy0 -/
theorem test_decode_skips :
    decodeWord 0b0011000100100011 = some (.seImm 1 0x23) ∧ decodeWord 0b0100111100000001 = some (.sneImm 15 0x01) ∧
    decodeWord 0b0101001101000000 = some (.seReg 3 4) ∧ decodeWord 0b1001001101000000 = some (.sneReg 3 4) := by
  decide

/-- 6xkk, 7xkk, 8xy0 to 8xy7, 8xyE -/
theorem test_decode_alu :
    decodeWord 0b0110000000000101 = some (.ldImm 0 0x05) ∧ decodeWord 0b0111000111111111 = some (.addImm 1 0xFF) ∧
    decodeWord 0b1000000100100000 = some (.ldReg 1 2) ∧ decodeWord 0b1000000100100001 = some (.orReg 1 2) ∧
    decodeWord 0b1000000100100010 = some (.andReg 1 2) ∧ decodeWord 0b1000000100100011 = some (.xorReg 1 2) ∧
    decodeWord 0b1000000100100100 = some (.addReg 1 2) ∧ decodeWord 0b1000000100100101 = some (.subReg 1 2) ∧
    decodeWord 0b1000000100100110 = some (.shr 1 2) ∧ decodeWord 0b1000000100100111 = some (.subnReg 1 2) ∧
    decodeWord 0b1000000100101110 = some (.shl 1 2) := by
  decide

/-- Annn, Cxkk, Dxyn, Ex9E, ExA1 -/
theorem test_decode_index_draw_keys :
    decodeWord 0b1010000001010000 = some (.ldI 0x050) ∧ decodeWord 0b1100001100001111 = some (.rnd 3 0x0F) ∧
    decodeWord 0b1101000100101111 = some (.drw 1 2 15) ∧ decodeWord 0b1110010110011110 = some (.skp 5) ∧
    decodeWord 0b1110010110100001 = some (.sknp 5) := by
  decide

/-- Fx07, Fx0A, Fx15, Fx18, Fx1E, Fx29, Fx33, Fx55, Fx65 -/
theorem test_decode_class_F :
    decodeWord 0b1111001000000111 = some (.ldVxDt 2) ∧ decodeWord 0b1111001000001010 = some (.ldVxK 2) ∧
    decodeWord 0b1111001000010101 = some (.ldDtVx 2) ∧ decodeWord 0b1111001000011000 = some (.ldStVx 2) ∧
    decodeWord 0b1111001000011110 = some (.addI 2) ∧ decodeWord 0b1111001000101001 = some (.ldF 2) ∧
    decodeWord 0b1111001000110011 = some (.ldB 2) ∧ decodeWord 0b1111001001010101 = some (.storeRegs 2) ∧
    decodeWord 0b1111001001100101 = some (.loadRegs 2) := by
  decide

/-- The undefined words of T19 to T31. -/
theorem test_decode_refuses :
    ([0x0001, 0x00E1, 0x01E0, 0x0FFF, 0x5121, 0x9AB1, 0x8128] ++
      [0x812F, 0xE09F, 0xE1A0, 0xF000, 0xF1FF, 0xF075] : List Word).all (fun w => decodeWord w == none) = true := by
  decide

/-- An instruction is two bytes, the high one first (R90). -/
theorem test_decode_bytes :
    decode [0x12, 0xA8, 0x77] = .ok (.jp 0x2A8, [0x77]) ∧ decode [0x12] = .error .truncated ∧
    decode [] = .error .truncated ∧ decodeTableWord 16 0x12A8 = some (.jp 0x2A8) := by
  decide

/-- Lines of the listings of 95_test_vectors.md. -/
theorem test_assembly :
    (decodeWord 0xD012).map Instr.assembly = some "DRW V0 V1 2" ∧
    (decodeWord 0xA20E).map Instr.assembly = some "LD I 0x20E" ∧
    (decodeWord 0x609D).map Instr.assembly = some "LD V0 0x9D" ∧
    (decodeWord 0xF155).map Instr.assembly = some "LD [I] V1" := by
  decide +kernel

/-! ### Single steps -/

/-- The reset state with some V registers written. -/
def regs (l : List (Reg × Byte)) : State := l.foldl (fun s p => s.writeV p.1 p.2) State.reset

/-- With bytes stored from an address on. -/
def poked (s : State) (a : Nat) (l : List Byte) : State := s.setMem (s.mem.writeBlock a l)

/-- With the given keys down. -/
def holding (s : State) (l : List (Fin 16)) : State := s.setKeys (l.foldl (fun k (i : Fin 16) => k.set i.val true) s.keys)

/-- With the given pixels, (row, column), inverted. -/
def lit (s : State) (l : List (Fin 32 × Fin 64)) : State := s.setFb (l.foldl (fun f p => f.flip p.1 p.2) s.fb)

/-- The state after one step that runs the word `w` placed at PC. -/
def ran (w : Nat) (s : State) : Option State :=
  match step (s.withFetchWord 16 w) with
  | .next t => some t
  | .fault _ => none
  | .refused _ => none

/-- The latch after that step. -/
def latch (w : Nat) (s : State) : Option FaultRecord := (ran w s).bind (·.fault)

/-- T1: PC = 0x204 gives 0x206. -/
theorem test_nop : (ran 0x0000 (State.reset.setPc 0x204)).map (·.pc) = some 0x206 := by decide

/-- T2 -/
theorem test_cls :
    (ran 0x00E0 (lit State.reset [(0, 0), (31, 63), (5, 10)])).map
      (fun t => (t.fb.pixel 0 0, t.fb.pixel 31 63, t.fb.pixel 5 10, t.pc)) = some (false, false, false, 0x202) := by
  decide +kernel

/-- T5 -/
theorem test_ret :
    (ran 0x00EE (((State.reset.setSp 16).setStack (State.reset.stack.set 15 0xABC)).setPc 0x300)).map
      (fun t => (t.pc, t.sp)) = some (0xABC, 15) := by decide

/-- T4 -/
theorem test_ret_underflow : latch 0x00EE State.reset = some ⟨.stackUnderflow, 0x200, some 0x00EE, none⟩ := by decide

/-- T6 -/
theorem test_jp : (ran 0x12A8 State.reset).map (·.pc) = some 0x2A8 := by decide

/-- T12 -/
theorem test_call :
    (ran 0x2ABC ((State.reset.setSp 15).setPc 0x400)).map (fun t => (t.pc, t.sp, t.stack[15])) =
      some (0xABC, 16, 0x402) := by decide

/-- T13 -/
theorem test_call_overflow :
    latch 0x2ABC ((State.reset.setSp 16).setPc 0x400) = some ⟨.stackOverflow, 0x400, some 0x2ABC, none⟩ := by decide

/-- T16: not masked to 12 bits. -/
theorem test_jpV0 : (ran 0xBFFF (regs [(0, 0xFF)])).map (·.pc) = some 0x10FE := by decide

/-- T17: V0, not the V3 that nnn names. -/
theorem test_jpV0_uses_V0 : (ran 0xB300 (regs [(0, 0x02), (3, 0x55)])).map (·.pc) = some 0x302 := by decide

/-- T34, T33 -/
theorem test_seImm :
    (ran 0x3F01 (regs [(15, 0x01)])).map (·.pc) = some 0x204 ∧
    (ran 0x3100 (regs [(1, 0x01)])).map (·.pc) = some 0x202 := by decide

/-- T35, T36 -/
theorem test_sneImm :
    (ran 0x4211 (regs [(2, 0x10)])).map (·.pc) = some 0x204 ∧
    (ran 0x4211 (regs [(2, 0x11)])).map (·.pc) = some 0x202 := by decide

/-- T37, T38 -/
theorem test_seReg :
    (ran 0x5340 (regs [(3, 0x7F), (4, 0x7F)])).map (·.pc) = some 0x204 ∧
    (ran 0x5340 (regs [(3, 0x7F), (4, 0x7E)])).map (·.pc) = some 0x202 := by decide

/-- T40, T41 -/
theorem test_sneReg :
    (ran 0x9340 (regs [(3, 0x01), (4, 0x02)])).map (·.pc) = some 0x204 ∧
    (ran 0x9340 (regs [(3, 0x01), (4, 0x01)])).map (·.pc) = some 0x202 := by decide

/-- T45 -/
theorem test_ldImm : (ran 0x6005 State.reset).map (fun t => (t.readV 0, t.pc)) = some (0x05, 0x202) := by decide

/-- T48: the overflow writes no flag. -/
theorem test_addImm :
    (ran 0x71FF (regs [(1, 0x05), (15, 0x07)])).map (fun t => (t.readV 1, t.readV 15)) = some (0x04, 0x07) := by decide

/-- T50 -/
theorem test_ldReg : (ran 0x8120 (regs [(2, 0x3C)])).map (·.readV 1) = some 0x3C := by decide

/-- T51 -/
theorem test_or :
    (ran 0x8011 (regs [(0, 0xF0), (1, 0x0F), (15, 1)])).map (fun t => (t.readV 0, t.readV 15)) = some (0xFF, 1) := by
  decide

/-- T52 -/
theorem test_and :
    (ran 0x8012 (regs [(0, 0xF3), (1, 0x3F), (15, 1)])).map (fun t => (t.readV 0, t.readV 15)) = some (0x33, 1) := by
  decide

/-- T53 -/
theorem test_xor :
    (ran 0x8013 (regs [(0, 0xFF), (1, 0x0F), (15, 1)])).map (fun t => (t.readV 0, t.readV 15)) = some (0xF0, 1) := by
  decide

/-- T55 -/
theorem test_add :
    (ran 0x8014 (regs [(0, 0xFF), (1, 0x01)])).map (fun t => (t.readV 0, t.readV 15)) = some (0x00, 1) := by decide

/-- T60, T61: the flag register as destination and as operand. -/
theorem test_add_VF :
    (ran 0x8F14 (regs [(15, 0x01), (1, 0x02)])).map (·.readV 15) = some 0 ∧
    (ran 0x80F4 (regs [(0, 0x10), (15, 0xF5)])).map (fun t => (t.readV 0, t.readV 15)) = some (0x05, 1) := by decide

/-- T62 -/
theorem test_sub :
    (ran 0x8015 (regs [(0, 0x01), (1, 0x02), (15, 1)])).map (fun t => (t.readV 0, t.readV 15)) = some (0xFF, 0) := by
  decide

/-- T63: equal operands do not borrow. -/
theorem test_sub_equal :
    (ran 0x8015 (regs [(0, 0x05), (1, 0x05)])).map (fun t => (t.readV 0, t.readV 15)) = some (0x00, 1) := by decide

/-- T69: y ignored. -/
theorem test_shr :
    (ran 0x83A6 (regs [(3, 0x05), (10, 0xFF)])).map (fun t => (t.readV 3, t.readV 15)) = some (0x02, 1) := by decide

/-- T74 -/
theorem test_subn :
    (ran 0x8017 (regs [(0, 0x02), (1, 0x0A)])).map (fun t => (t.readV 0, t.readV 15)) = some (0x08, 1) := by decide

/-- T75 -/
theorem test_subn_borrow :
    (ran 0x8017 (regs [(0, 0x02), (1, 0x01), (15, 1)])).map (fun t => (t.readV 0, t.readV 15)) = some (0xFF, 0) := by
  decide

/-- T77 -/
theorem test_shl : (ran 0x830E (regs [(3, 0x81)])).map (fun t => (t.readV 3, t.readV 15)) = some (0x02, 1) := by decide

/-- T84: all 16 bits of I are written. -/
theorem test_ldI : (ran 0xAFFF (State.reset.setI 0xFFFF)).map (·.i) = some 0x0FFF := by decide

/-- T86, T87: the wrap is at 16 bits, and no flag. -/
theorem test_addI :
    (ran 0xF21E ((regs [(2, 0x01), (15, 7)]).setI 0x0FFF)).map (fun t => (t.i, t.readV 15)) = some (0x1000, 7) ∧
    (ran 0xF21E ((regs [(2, 0x01)]).setI 0xFFFF)).map (·.i) = some 0x0000 := by decide

/-- T89: the tick is handed 0xB7. -/
theorem test_rnd :
    (match tick 0xB7 (State.reset.withFetchWord 16 0xC30F) with
      | .next t => some (t.readV 3, t.draws)
      | .fault _ => none
      | .refused _ => none) = some (0x07, 1) := by decide

/-- T95: a collision. -/
theorem test_drw :
    (ran 0xD011 (lit (poked (State.reset.setI 0x300) 0x300 [0xC0]) [(0, 1)])).map
      (fun t => (t.readV 15, t.fb.pixel 0 0, t.fb.pixel 0 1)) = some (1, true, false) := by decide +kernel

/-- T93: the columns wrap. -/
theorem test_drw_wraps :
    (ran 0xD011 (poked ((regs [(0, 0x3C), (1, 0x1F)]).setI 0x300) 0x300 [0xFF])).map
      (fun t => (t.fb.pixel 31 60, t.fb.pixel 31 3, t.fb.pixel 31 4, t.readV 15)) = some (true, true, false, 0) := by
  decide +kernel

/-- T113 -/
theorem test_skp : (ran 0xE59E (holding (regs [(5, 0x0F)]) [15])).map (·.pc) = some 0x204 := by decide

/-- T111: the index is not masked to 0. -/
theorem test_skp_index :
    latch 0xE59E (regs [(5, 0x10)]) = some ⟨.keyIndexOutOfRange, 0x200, some 0xE59E, some 0x10⟩ := by decide

/-- T109, T110 -/
theorem test_sknp :
    (ran 0xE5A1 (regs [(5, 0x0A)])).map (·.pc) = some 0x204 ∧
    (ran 0xE5A1 (holding (regs [(5, 0x0A)]) [10])).map (·.pc) = some 0x202 := by decide

/-- T112 -/
theorem test_sknp_index :
    latch 0xE5A1 (holding (regs [(5, 0xFF)]) [15]) = some ⟨.keyIndexOutOfRange, 0x200, some 0xE5A1, some 0xFF⟩ := by
  decide

/-- T119 -/
theorem test_ldVxDt : (ran 0xF107 (State.reset.setDt 0x2A)).map (·.readV 1) = some 0x2A := by decide

/-- T116: the lowest of three. -/
theorem test_ldVxK :
    (ran 0xF20A (holding State.reset [3, 9, 12])).map (fun t => (t.readV 2, t.pc)) = some (0x03, 0x202) := by decide

/-- T114: no key, so the instruction runs again. -/
theorem test_ldVxK_waits : (ran 0xF00A (regs [(0, 9)])).map (fun t => (t.readV 0, t.pc)) = some (9, 0x200) := by decide

/-- T120 -/
theorem test_ldDtVx : (ran 0xF015 (regs [(0, 0x3C)])).map (fun t => (t.dt, t.st)) = some (0x3C, 0) := by decide

/-- T122 -/
theorem test_ldStVx : (ran 0xF018 (regs [(0, 0x05)])).map (fun t => (t.dt, t.st)) = some (0, 0x05) := by decide

/-- T123, T127 -/
theorem test_ldF :
    (ran 0xF329 (regs [(3, 0x0A)])).map (·.i) = some 0x0082 ∧
    (ran 0xF329 (regs [(3, 0xFF)])).map (·.i) = some 0x054B := by decide

/-- T128 -/
theorem test_ldB :
    (ran 0xF033 ((regs [(0, 0x9D)]).setI 0x300)).map (fun t => (t.mem.readBlock 0x300 4, t.i)) =
      some ([1, 5, 7, 0], 0x300) := by decide

/-- T132: the highest address is checked before anything is written. -/
theorem test_ldB_outside :
    latch 0xF033 ((regs [(0, 0x64)]).setI 0xFFE) = some ⟨.memoryOutOfRange, 0x200, some 0xF033, some 0x1000⟩ := by decide

/-- T133: four bytes, not five. -/
theorem test_storeRegs :
    (ran 0xF355 ((regs [(0, 0x11), (1, 0x22), (2, 0x33), (3, 0x44), (4, 0x55)]).setI 0x400)).map
      (fun t => (t.mem.readBlock 0x400 5, t.i)) = some ([0x11, 0x22, 0x33, 0x44, 0], 0x400) := by decide

/-- T138 -/
theorem test_storeRegs_outside :
    latch 0xF055 ((regs [(0, 0xAB)]).setI 0x1000) = some ⟨.memoryOutOfRange, 0x200, some 0xF055, some 0x1000⟩ := by
  decide

/-- T139: V3 keeps its value. -/
theorem test_loadRegs :
    (ran 0xF265 (poked ((regs [(3, 0xEE)]).setI 0x300) 0x300 [1, 5, 7, 9])).map
      (fun t => (t.readV 0, t.readV 2, t.readV 3)) = some (1, 7, 0xEE) := by decide

/-- T142: the first glyph of the font. -/
theorem test_loadRegs_font :
    (ran 0xF465 (State.reset.setI 0x50)).map (fun t => (t.readV 0, t.readV 1, t.readV 4)) = some (0xF0, 0x90, 0xF0) := by
  decide

/-- T18: an odd PC is legal. T9, T10: a fetch outside memory. -/
theorem test_fetch :
    (ran 0x6007 (State.reset.setPc 0x201)).map (fun t => (t.pc, t.readV 0)) = some (0x203, 7) ∧
    latch 0 (State.reset.setPc 0xFFF) = some ⟨.memoryOutOfRange, 0xFFF, none, some 0x1000⟩ ∧
    latch 0 (State.reset.setPc 0x1000) = some ⟨.memoryOutOfRange, 0x1000, none, some 0x1000⟩ := by decide

/-- T25 -/
theorem test_undefined_word :
    latch 0x8128 State.reset = some ⟨.undefinedInstruction, 0x200, some 0x8128, none⟩ := by decide

/-- A reset block runs the image it was loaded with (70_reset_and_hazards.md R273). -/
theorem test_load_then_step :
    (apply (.tick 0) (apply (.loadProgram [0x60, 0x05]) State.reset).1).1.readV 0 = 5 := by decide

/-! ### Witnesses: the hypotheses of the statements can be met -/

/-- A halted state: RET on the empty stack of reset has been run. -/
def halted : State := State.reset.afterFetch.latched .ret .stackUnderflow none

theorem witness_DecodeInvertsEncode : (Instr.shr 15 15).wellFormed = true := by decide

theorem witness_EncodeInvertsDecode : decodeWord 0x83A6 = some (.shr 3 10) := by decide

theorem witness_DecodeAgreesWithOpcodeMap : (⟨"SHL_Vx", 0x800E, 0xF00F⟩ : OpcodeRow) ∈ opcodeMap := by decide

/-- At the last legal PC, and at an odd one. -/
theorem witness_StepRunsDecodedInstruction :
    (∃ s : State, s.fault = none ∧ s.pc.toNat = 0xFFE ∧
      decode [s.mem.readByte s.pc.toNat, s.mem.readByte (s.pc.toNat + 1)] = .ok (.jp 0x2A8, [])) ∧
    (∃ s : State, s.fault = none ∧ s.pc.toNat = 0x201 ∧
      decode [s.mem.readByte s.pc.toNat, s.mem.readByte (s.pc.toNat + 1)] = .ok (.nop, [])) :=
  ⟨⟨poked (State.reset.setPc 0xFFE) 0xFFE [0x12, 0xA8], by decide⟩, ⟨State.reset.setPc 0x201, by decide⟩⟩

/-- A tick that commits and a tick that latches. -/
theorem witness_StepIsTheTickOfTheFreeByte :
    (∃ t, tick 7 State.reset = .next t ∧ t.fault = none) ∧
    (∃ t r, tick 7 (State.reset.setPc 0xFFF) = .next t ∧ t.fault = some r) :=
  ⟨⟨_, rfl, rfl⟩, ⟨_, _, rfl, rfl⟩⟩

/-- 0xFFF and 0x1000, the two cases of the reported address. -/
theorem witness_FetchOutsideMemoryFaults :
    ((State.reset.setPc 0xFFF).fault = none ∧ 0xFFE < (State.reset.setPc 0xFFF).pc.toNat) ∧
    (State.reset.setPc 0x1000).fault = none ∧ (State.reset.setPc 0x1000).pc.toNat = 0x1000 := by decide

theorem witness_UndefinedWordFaults :
    let s := poked State.reset 0x200 [0x81, 0x28]
    s.fault = none ∧ s.pc.toNat ≤ 0xFFE ∧
      0x8128#16 = wordOfBytes (s.mem.readByte s.pc.toNat) (s.mem.readByte (s.pc.toNat + 1)) ∧
      decodeWord 0x8128 = none := by decide

theorem witness_HaltedTickChangesNothing :
    halted.fault = some ⟨.stackUnderflow, 0x200, some 0x00EE, none⟩ := by decide

theorem witness_OnlyResetLeavesTheHaltedState :
    halted.fault = some ⟨.stackUnderflow, 0x200, some 0x00EE, none⟩ ∧ halted.started = true ∧
      ∀ op ∈ [HostOp.tick 1, .timerTick, .setKey 3 true, .loadProgram [1], .readDisplay], op ≠ .reset := by decide

/-- A fault in the fetch, and one after it. -/
theorem witness_FaultingStepHasNoOtherEffect :
    (∃ s t : State, s.fault = none ∧ s.pc.toNat = 0xFFF ∧ step s = .next t ∧ t.fault ≠ none) ∧
    (∃ s t : State, s.fault = none ∧ s.pc.toNat = 0xFFE ∧ step s = .next t ∧ t.fault ≠ none) :=
  ⟨⟨State.reset.setPc 0xFFF, _, rfl, rfl, rfl, by decide⟩,
    ⟨poked (State.reset.setPc 0xFFE) 0xFFE [0x00, 0xEE], _, rfl, rfl, rfl, by decide⟩⟩

/-- One instruction of each kind that latches, and one that does not. -/
theorem witness_InstructionsFaultExactlyWhen :
    (∃ t, exec (.call 0x300) (State.reset.setSp 16) = .next t ∧ t.fault ≠ none) ∧
    (∃ t, exec .ret State.reset = .next t ∧ t.fault ≠ none) ∧
    (∃ t, exec (.ldB 0) (State.reset.setI 0xFFE) = .next t ∧ t.fault ≠ none) ∧
    (∃ t, exec (.skp 5) (regs [(5, 16)]) = .next t ∧ t.fault ≠ none) ∧
    (∃ t, exec (.skp 5) (regs [(5, 15)]) = .next t ∧ t.fault = none) :=
  ⟨⟨_, rfl, by decide⟩, ⟨_, rfl, by decide⟩, ⟨_, rfl, by decide⟩, ⟨_, rfl, by decide⟩, ⟨_, rfl, by decide⟩⟩

/-- The last free entry, and none. -/
theorem witness_CallPushesTheReturnAddress :
    (State.reset.setSp 15).sp.val < 16 ∧ (State.reset.setSp 16).sp.val = 16 := by decide

/-- The last entry, the first entry, and none. -/
theorem witness_ReturnPopsTheReturnAddress :
    (State.reset.setSp 16).sp.val = (15 : Fin 16).val + 1 ∧ (State.reset.setSp 1).sp.val = (0 : Fin 16).val + 1 ∧
      State.reset.sp.val = 0 := by decide

theorem witness_ReturnUndoesCall :
    ∃ t u : State, (State.reset.setSp 15).sp.val < 16 ∧ exec (.call 0x300) (State.reset.setSp 15) = .next t ∧
      u.stack = t.stack ∧ u.sp = t.sp := ⟨_, _, by decide, rfl, rfl, rfl⟩

theorem witness_SeventeenthNestedCallOverflows :
    State.reset.sp.val = 0 ∧ State.reset.fault = none ∧ (List.replicate 16 (0x300 : Imm12)).length = 16 ∧
      (State.reset.setSp 16).sp.val = 16 := by decide

/-- The last key, and the first index that is none. -/
theorem witness_KeySkipResults :
    ((regs [(5, 15)]).readV 5).toNat = (15 : Fin 16).val ∧ 15 < ((regs [(5, 16)]).readV 5).toNat := by decide

theorem witness_AddAndSubtractResults :
    255 = ((regs [(15, 255)]).readV 15).toNat ∧ 255 < 255 + ((regs [(1, 1)]).readV 1).toNat := by decide

theorem witness_ShiftResults : 129 = ((regs [(15, 129)]).readV 15).toNat := by decide

theorem witness_RegistersAreWrittenOnlyAsTheTableSays :
    ∃ t, exec (.addReg 1 2) State.reset = .next t ∧ (Instr.addReg 1 2).writesReg 2 = false := ⟨_, rfl, by decide⟩

theorem witness_OnlyRndUsesTheRandomByte : ∀ x kk, Instr.nop ≠ .rnd x kk := by simp

/-- No rows with I outside memory, and the last byte of memory. -/
theorem witness_DrawFlipsExactlyTheCoveredPixels :
    ((0 : Fin 16).val = 0 ∨ (State.reset.setI 0x1000).base + (0 : Fin 16).val ≤ 0x1000) ∧
    (State.reset.setI 0xFFF).base + (1 : Fin 16).val ≤ 0x1000 := by decide

/-- A covered pixel, lit (T95), and one that is not covered. -/
theorem witness_DrawFlips_pixels :
    let s := lit (poked (State.reset.setI 0x300) 0x300 [0xC0]) [(0, 1)]
    (s.spriteCovers 0 0 1 0 1 ∧ s.fb.pixel 0 1 = true) ∧ ¬ s.spriteCovers 0 0 1 0 2 := by
  refine ⟨⟨⟨0, 1, by decide, by decide, by decide, by decide, by decide⟩, by decide +kernel⟩, ?_⟩
  rintro ⟨r, c, hr, hc, hb, -, hx⟩
  obtain rfl : r = 0 := by omega
  obtain rfl : c = 2 := by have : (2 : Fin 64).val = 2 := rfl; omega
  revert hb
  decide

theorem witness_DrawingTwiceRestoresTheScreen :
    ∃ (s t : State), s.base + (1 : Fin 16).val ≤ 0x1000 ∧ exec (.drw 0 1 1) s = .next t ∧ t.i = s.i ∧
      (∀ a, t.mem.readByte a = s.mem.readByte a) ∧ t.readV 0 = s.readV 0 ∧ t.readV 1 = s.readV 1 :=
  ⟨State.reset.setI 0x50, _, by decide, rfl, rfl, fun _ => rfl, by decide, by decide⟩

/-- The highest address just outside, and I itself outside. -/
theorem witness_DataAccessOutsideMemoryFaults :
    ((Instr.drw 0 1 2).accesses ≠ 0 ∧ 0x1000 < (State.reset.setI 0xFFF).base + (Instr.drw 0 1 2).accesses ∧
      (State.reset.setI 0xFFF).base ≤ 0xFFF) ∧
    ((Instr.loadRegs 0).accesses ≠ 0 ∧ 0x1000 < (State.reset.setI 0x1000).base + (Instr.loadRegs 0).accesses ∧
      ¬ (State.reset.setI 0x1000).base ≤ 0xFFF) := by decide

/-- Only the last key down, and none. -/
theorem witness_KeyWaitResults :
    ((holding State.reset [15]).keys[(15 : Fin 16)] = true ∧
      ∀ j : Fin 16, j < 15 → (holding State.reset [15]).keys[j] = false) ∧
    ∀ k : Fin 16, State.reset.keys[k] = false := by decide

theorem witness_BcdStoresThreeDigits :
    (State.reset.setI 0xFFD).mem.wf = true ∧ (State.reset.setI 0xFFD).base + 3 ≤ 0x1000 := by decide

theorem witness_StoreRegistersWritesTheBlock :
    (State.reset.setI 0xFF0).mem.wf = true ∧ (State.reset.setI 0xFF0).base + ((15 : Reg).val + 1) ≤ 0x1000 := by decide

theorem witness_LoadRegistersReadsTheBlock :
    (State.reset.setI 0xFF0).base + ((15 : Reg).val + 1) ≤ 0x1000 ∧
      (State.reset.setI 0xFFF).base + ((0 : Reg).val + 1) ≤ 0x1000 := by decide

theorem witness_StoreIsSeenByTheNextFetch :
    let s := ((regs [(0, 0x12), (1, 0xA8)]).setI 0x200)
    ∃ t, s.mem.wf = true ∧ s.fault = none ∧ 1 ≤ (1 : Reg).val ∧ s.base + ((1 : Reg).val + 1) ≤ 0x1000 ∧ s.i = s.pc ∧
      exec (.storeRegs 1) s = .next t ∧ decodeWord (wordOfBytes (s.readV 0) (s.readV 1)) = some (.jp 0x2A8) :=
  ⟨_, by decide, by decide, by decide, by decide, by decide, rfl, by decide⟩

/-- A step that commits and one that latches. -/
theorem witness_PcAtTheEndOfEachStep :
    let s := poked State.reset 0x200 [0x00, 0xEE]
    decode [s.mem.readByte s.pc.toNat, s.mem.readByte (s.pc.toNat + 1)] = .ok (.ret, []) ∧
    (∃ t, step s = .next t ∧ t.fault ≠ none) ∧ ∃ t, step (s.setSp 1) = .next t ∧ t.fault = none :=
  ⟨by decide, ⟨_, rfl, by decide⟩, ⟨_, rfl, by decide⟩⟩

/-- Each part does change somewhere. -/
theorem witness_PartsAreChangedOnlyByTheirWriters :
    (∃ t, exec .cls (lit State.reset [(0, 0)]) = .next t ∧ t.fb.pixel 0 0 ≠ (lit State.reset [(0, 0)]).fb.pixel 0 0) ∧
    (∃ t, exec (.ldB 0) ((regs [(0, 1)]).setI 0x300) = .next t ∧ t.mem.readByte 0x302 ≠ State.reset.mem.readByte 0x302) ∧
    (∃ t, exec (.ldI 1) State.reset = .next t ∧ t.i ≠ State.reset.i) ∧
    (∃ t, exec (.ldDtVx 0) (regs [(0, 1)]) = .next t ∧ t.dt ≠ State.reset.dt) ∧
    (∃ t, exec (.ldStVx 0) (regs [(0, 1)]) = .next t ∧ t.st ≠ State.reset.st) ∧
    (∃ t, exec (.call 1) State.reset = .next t ∧ t.sp ≠ State.reset.sp ∧ t.stack[0] ≠ State.reset.stack[0]) ∧
    (∃ t, exec (.rnd 0 1) State.reset = .next t ∧ t.draws ≠ State.reset.draws) :=
  ⟨⟨_, rfl, by decide +kernel⟩, ⟨_, rfl, by decide⟩, ⟨_, rfl, by decide⟩, ⟨_, rfl, by decide⟩, ⟨_, rfl, by decide⟩,
    ⟨_, rfl, by decide⟩, ⟨_, rfl, by decide⟩⟩

theorem witness_KeysAreWrittenOnlyFromOutside :
    HostOp.tick 0 ≠ .reset ∧ (∀ k b, HostOp.tick 0 ≠ .setKey k b) ∧ ∃ t, exec (.ldVxK 0) State.reset = .next t :=
  ⟨by decide, by simp, ⟨_, rfl⟩⟩

theorem witness_SoundTimerIsInvisibleToPrograms : ∃ t, exec (.ldStVx 0) State.reset = .next t := ⟨_, rfl⟩

/-- A jump to itself, and a key wait with no key down. -/
theorem witness_SpinsLeaveTheStateUnchanged :
    let s := poked (State.reset.setStarted true) 0x200 [0x12, 0x00, 0xF0, 0x0A]
    (s.fault = none ∧ s.started = true ∧ s.pc.toNat ≤ 0xFFE ∧
      decodeWord (wordOfBytes (s.mem.readByte 0x200) (s.mem.readByte 0x201)) = some (.jp 0x200) ∧
      (0x200 : Imm12).toNat = s.pc.toNat) ∧
    decodeWord (wordOfBytes (s.mem.readByte 0x202) (s.mem.readByte 0x203)) = some (.ldVxK 0) ∧
    (∀ k : Fin 16, s.keys[k] = false) := by decide

/-- A canonical memory that lists something; the addresses 0xFFE, 0xFFF and 0x1000 fall in the clauses. -/
theorem witness_CheckedMemoryPrimitives :
    Memory.wf [(0x50, 0x00), (0xFFF, 0x12)] = true ∧ 0xFFE ≤ 0xFFE ∧ 0xFFF ≤ 0xFFF ∧ 0xFFF < 0x1000 := by decide

/-- A running state with one return address in use. -/
def inCall : State := ((poked State.reset 0x300 [0x00, 0xEE]).setPc 0x300).setSp 1

/-- A state that satisfies the invariant and steps. -/
theorem witness_StepKeepsTheInvariant : inCall.Inv ∧ ∃ t, step inCall = .next t :=
  ⟨⟨by decide, by decide, by decide, fun r h => nomatch h⟩, ⟨_, rfl⟩⟩

/-- So does a state in which a fault is latched. -/
theorem witness_EveryOperationKeepsTheInvariant : halted.Inv ∧ State.reset.Reachable := by
  refine ⟨⟨by decide, by decide, by decide, fun r h => ?_⟩, ⟨[], rfl⟩⟩
  obtain rfl : r = ⟨.stackUnderflow, 0x200, some 0x00EE, none⟩ :=
    (Option.some.inj (witness_HaltedTickChangesNothing.symm.trans h)).symm
  exact ⟨⟨rfl, rfl⟩, by decide, rfl⟩

/-- The last key, and the first index that is refused. -/
theorem witness_SetKeyResult : (15 : Fin 16).val = 15 ∧ 16 ≤ 16 ∧ ∃ t, exec .nop State.reset = .next t :=
  ⟨by decide, by decide, ⟨_, rfl⟩⟩

/-- The longest image that fits, and the shortest that does not. -/
theorem witness_LoadProgramResult :
    State.reset.mem.wf = true ∧ State.reset.loaded = false ∧ State.reset.started = false ∧
      0x200 + (List.replicate 3584 (0 : Byte)).length ≤ 4096 ∧
      4096 < 0x200 + (List.replicate 3585 (0 : Byte)).length := by
  simp only [List.length_replicate]
  decide

/-- The last two bytes of a two-byte image, loaded and at PC. -/
theorem witness_LoadedWordIsTheOneFetched :
    ∃ t, State.reset.mem.wf = true ∧ apply (.loadProgram [0x12, 0xA8]) State.reset = (t, .ok) ∧
      2 * 0 + 1 < [0x12, 0xA8].length ∧ t.pc.toNat = 0x200 + 2 * 0 := ⟨_, rfl, rfl, by decide, rfl⟩

/-- Refused for either reason; a tick on a running block; a load that succeeds. -/
theorem witness_LoadIsRefusedAfterLoadOrTick :
    (State.reset.setLoaded true).loaded = true ∧ (State.reset.setStarted true).started = true ∧
      State.reset.fault = none ∧ ∃ t, apply (.loadProgram [1]) State.reset = (t, .ok) :=
  ⟨rfl, rfl, rfl, ⟨_, rfl⟩⟩

end Sys2Proof.Tests
end

section
/-! SUPPORT. What the execution of an instruction can do to the state it runs in, said once for all instructions; the
facts about parts of the state below follow from it, without unfolding `exec` again. -/

namespace Sys2Proof

/-- The instructions that may leave PC elsewhere than the fetch put it (10_state.md R26). -/
def Instr.movesPc : Instr → Bool
  | .jp _ | .call _ | .ret | .jpV0 _ | .ldVxK _ => true
  | .seImm _ _ | .sneImm _ _ | .seReg _ _ | .sneReg _ _ | .skp _ | .sknp _ => true
  | _ => false

end Sys2Proof

namespace Sys2Proof.Machine

/-! ### Addresses as numbers -/

@[simp] theorem toNat_zextImm (nnn : Imm12) : (zextImm nnn).toNat = nnn.toNat := by
  have := nnn.isLt
  simp only [zextImm, BitVec.toNat_setWidth]
  omega

@[simp] theorem toNat_zextByte (b : Byte) : (zextByte b).toNat = b.toNat := by
  have := b.isLt
  simp only [zextByte, BitVec.toNat_setWidth]
  omega

/-- The sum of the jump with offset does not wrap (40_control_flow.md R128). -/
@[simp] theorem toNat_zextImm_add_zextByte (nnn : Imm12) (b : Byte) :
    (zextImm nnn + zextByte b).toNat = nnn.toNat + b.toNat := by
  have := nnn.isLt
  have := b.isLt
  rw [BitVec.toNat_add, toNat_zextImm, toNat_zextByte]
  omega

/-! ### The two answers of the key wait (45_keypad.md R203) -/

theorem exec_ldVxK_of_none (s : State) (x : Reg) (h : firstPressed s.keys = none) :
    exec (.ldVxK x) s = .next s.repeatInstr := by
  simp [exec, execLdVxK, h]

theorem exec_ldVxK_of_some (s : State) (x : Reg) {k : Fin 16} (h : firstPressed s.keys = some k) :
    exec (.ldVxK x) s = .next (s.writeV x (BitVec.ofNat 8 k.val)) := by
  simp [exec, execLdVxK, h]

/-! ### Well-shaped records -/

/-- The address a range check reports is one the record may hold (60_exceptions.md R231). -/
theorem wellShaped_of_outOfRange {s : State} {n bad : Nat} (h : outOfRange s.base n = some bad) (a : Word)
    (w : Option Word) : FaultRecord.wellShaped ⟨.memoryOutOfRange, a, w, some bad⟩ := by
  obtain ⟨hbad, hbase, -, hlowest⟩ := outOfRange_eq_some h
  have hi : s.base < 65536 := s.i.isLt
  have := hlowest (bad - 1)
  exact ⟨bad, rfl, hbad, by omega⟩

/-- An index a key skip refuses is one the record may hold (60_exceptions.md R231, R237). -/
theorem wellShaped_of_keyIndex {s : State} {x : Reg} {i : Instr} (hk : ¬ (s.readV x).toNat < 16)
    (hi : i = .skp x ∨ i = .sknp x) (a : Word) :
    FaultRecord.wellShaped ⟨.keyIndexOutOfRange, a, some (encodeWord i), some (s.readV x).toNat⟩ := by
  have := (s.readV x).isLt
  refine ⟨_, rfl, by omega, by omega, x, ?_⟩
  rcases hi with rfl | rfl
  · exact .inl rfl
  · exact .inr rfl

/-! ### The kinds of effect -/

/-- What the execution of an instruction may turn the state `s` into, by the kind of the change. A kind says which
parts change, for which instructions, and the bounds that the invariant (10_state.md R27, R35) needs; the new values
themselves are the business of the instruction's own equation. -/
inductive Effect (s : State) : Instr → State → Prop
  /-- a fault is taken, and nothing else happens (60_exceptions.md R236) -/
  | fault {i : Instr} {c : Cause} {addr : Option Nat}
      (h : FaultRecord.wellShaped ⟨c, s.pc - 2, some (encodeWord i), addr⟩) :
      Effect s i (s.raise c (s.pc - 2) (some (encodeWord i)) addr)
  | nop : Effect s .nop s
  | clear : Effect s .cls (s.setFb Screen.clear)
  /-- V registers change, only those the table of 10_state.md R24 allows -/
  | regs {i : Instr} {vs : Vector Byte 16} (h : ∀ r, i.writesReg r = false → (s.setV vs).readV r = s.readV r) :
      Effect s i (s.setV vs)
  | rnd {x : Reg} {kk b : Byte} {n : Nat} : Effect s (.rnd x kk) ((s.writeV x b).setDraws n)
  | draw {x y : Reg} {n : Fin 16} {fb : Screen} {f : Bool} : Effect s (.drw x y n) ((s.setFb fb).writeFlag f)
  | jump {i : Instr} {w : Word} (hi : i.movesPc = true) (hw : w.toNat ≤ 0x10FE) : Effect s i (s.setPc w)
  | skip {i : Instr} {c : Bool} (hi : i.movesPc = true) : Effect s i (s.skipIf c)
  | wait {x : Reg} : Effect s (.ldVxK x) s.repeatInstr
  | call {nnn : Imm12} (h : s.sp.val < 16) :
      Effect s (.call nnn)
        (((s.setStack (s.stack.set s.sp.val s.pc h)).setSp ⟨s.sp.val + 1, by omega⟩).setPc (zextImm nnn))
  | ret (h : 0 < s.sp.val) :
      Effect s .ret ((s.setSp ⟨s.sp.val - 1, by omega⟩).setPc (s.stack[s.sp.val - 1]'(by omega)))
  | index {i : Instr} {w : Word} (hi : (∃ nnn, i = .ldI nnn) ∨ ∃ x, i = .addI x ∨ i = .ldF x) : Effect s i (s.setI w)
  | delay {x : Reg} {b : Byte} : Effect s (.ldDtVx x) (s.setDt b)
  | sound {x : Reg} {b : Byte} : Effect s (.ldStVx x) (s.setSt b)
  /-- a block of bytes inside memory is written -/
  | store {i : Instr} {bs : List Byte} (hi : ∃ x, i = .ldB x ∨ i = .storeRegs x) (hb : s.base + bs.length ≤ 0x1000) :
      Effect s i (s.setMem (s.mem.writeBlock s.base bs))

theorem Effect.writeV {s : State} {i : Instr} {x : Reg} {b : Byte} (h : i.writesReg x = true) :
    Effect s i (s.writeV x b) :=
  .regs fun r hr => by
    have hne : r ≠ x := by rintro rfl; simp [h] at hr
    exact (State.readV_writeV s x b r).trans (if_neg hne)

theorem Effect.writeResultThenFlag {s : State} {i : Instr} {x : Reg} {b : Byte} {f : Bool}
    (hx : i.writesReg x = true) (hF : i.writesReg vF = true) : Effect s i (s.writeResultThenFlag x b f) :=
  .regs fun r hr => by
    have hne : r ≠ x := by rintro rfl; simp [hx] at hr
    have hneF : r ≠ vF := by rintro rfl; simp [hF] at hr
    exact (State.readV_writeResultThenFlag s x b f r).trans (by rw [if_neg hneF, if_neg hne])

/-- A check that passes bounds a block that is not empty. -/
theorem base_add_le_of_inRange {s : State} {n : Nat} (hn : n ≠ 0) (h : outOfRange s.base n = none) :
    s.base + n ≤ 0x1000 := by
  rcases outOfRange_eq_none.mp h with h0 | hle
  · exact absurd h0 hn
  · exact hle

theorem length_bcdDigits (b : Byte) : (bcdDigits b).length = 3 := rfl

theorem State.length_regsUpTo (s : State) (x : Reg) : (s.regsUpTo x).length = x.val + 1 := by
  have := x.isLt
  simp only [State.regsUpTo, blockLength, List.length_take, Vector.length_toList]
  omega

/-- Every instruction in every state answers a next state, and the state is one of the kinds of effect. -/
theorem exec_effect (i : Instr) (s : State) : ∃ t, exec i s = .next t ∧ Effect s i t := by
  cases i with
  | nop => exact ⟨_, rfl, .nop⟩
  | cls => exact ⟨_, rfl, .clear⟩
  | ret =>
    by_cases h : s.sp.val = 0
    · exact ⟨_, exec_ret_of_empty s h, .fault ⟨rfl, rfl⟩⟩
    · exact ⟨_, exec_ret_of_pos s (by omega), .ret (by omega)⟩
  | call nnn =>
    by_cases h : s.sp.val = 16
    · exact ⟨_, exec_call_of_full s nnn h, .fault ⟨rfl, nnn, rfl⟩⟩
    · exact ⟨_, exec_call_of_lt s nnn (by omega), .call (by omega)⟩
  | jp nnn => exact ⟨_, rfl, .jump rfl (by rw [toNat_zextImm]; omega)⟩
  | jpV0 nnn => exact ⟨_, rfl, .jump rfl (by rw [toNat_zextImm_add_zextByte]; omega)⟩
  | seImm | sneImm | seReg | sneReg => exact ⟨_, rfl, .skip rfl⟩
  | skp x =>
    by_cases h : (s.readV x).toNat < 16
    · exact ⟨_, exec_skp_of_lt s x h, .skip rfl⟩
    · exact ⟨_, exec_skp_of_ge s x h, .fault (wellShaped_of_keyIndex h (.inl rfl) _)⟩
  | sknp x =>
    by_cases h : (s.readV x).toNat < 16
    · exact ⟨_, exec_sknp_of_lt s x h, .skip rfl⟩
    · exact ⟨_, exec_sknp_of_ge s x h, .fault (wellShaped_of_keyIndex h (.inr rfl) _)⟩
  | ldVxK x =>
    cases h : firstPressed s.keys with
    | none => exact ⟨_, exec_ldVxK_of_none s x h, .wait⟩
    | some k => exact ⟨_, exec_ldVxK_of_some s x h, .writeV (by simp [Instr.writesReg])⟩
  | ldImm | addImm | ldReg | orReg | andReg | xorReg | ldVxDt =>
    exact ⟨_, rfl, .writeV (by simp [Instr.writesReg])⟩
  | addReg | subReg | shr | subnReg | shl =>
    exact ⟨_, rfl, .writeResultThenFlag (by simp [Instr.writesReg]) (by simp [Instr.writesReg])⟩
  | rnd x kk => exact ⟨_, rfl, .rnd⟩
  | ldI nnn => exact ⟨_, rfl, .index (.inl ⟨nnn, rfl⟩)⟩
  | addI x => exact ⟨_, rfl, .index (.inr ⟨x, .inl rfl⟩)⟩
  | ldF x => exact ⟨_, rfl, .index (.inr ⟨x, .inr rfl⟩)⟩
  | ldDtVx x => exact ⟨_, rfl, .delay⟩
  | ldStVx x => exact ⟨_, rfl, .sound⟩
  | drw x y n =>
    cases h : outOfRange s.base n.val with
    | none => exact ⟨_, exec_drw_in s x y n h, .draw⟩
    | some bad => exact ⟨_, exec_drw_out s x y n h, .fault (wellShaped_of_outOfRange h _ _)⟩
  | ldB x =>
    cases h : outOfRange s.base 3 with
    | none => exact ⟨_, exec_ldB_in s x h, .store ⟨x, .inl rfl⟩ (base_add_le_of_inRange (n := 3) (by decide) h)⟩
    | some bad => exact ⟨_, exec_ldB_out s x h, .fault (wellShaped_of_outOfRange h _ _)⟩
  | storeRegs x =>
    cases h : outOfRange s.base (x.val + 1) with
    | none =>
      refine ⟨_, exec_storeRegs_in s x h, .store ⟨x, .inr rfl⟩ ?_⟩
      rw [State.length_regsUpTo]
      exact base_add_le_of_inRange (by omega) h
    | some bad => exact ⟨_, exec_storeRegs_out s x h, .fault (wellShaped_of_outOfRange h _ _)⟩
  | loadRegs x =>
    cases h : outOfRange s.base (x.val + 1) with
    | none =>
      refine ⟨_, exec_loadRegs_in s x h, .regs fun r hr => ?_⟩
      have hgt : ¬ r.val ≤ x.val := by simpa [Instr.writesReg] using hr
      rw [State.readV_setV_ofFn, if_neg hgt]
    | some bad => exact ⟨_, exec_loadRegs_out s x h, .fault (wellShaped_of_outOfRange h _ _)⟩

theorem effect_of_exec {i : Instr} {s t : State} (h : exec i s = .next t) : Effect s i t := by
  obtain ⟨u, hu, he⟩ := exec_effect i s
  obtain rfl : u = t := Host.Outcome.next.inj (hu.symm.trans h)
  exact he

/-- A tick that is handed its random byte has the same kinds of effect (43_index_random.md R183). -/
theorem effect_of_execWith {rnd : Byte} {i : Instr} {s t : State} (h : execWith rnd i s = .next t) :
    Effect s i t := by
  unfold execWith at h
  split at h
  · obtain rfl := Host.Outcome.next.inj h
    exact .rnd
  · exact effect_of_exec h

/-! ### The tick and the operations -/

/-- Everything a tick can answer as a next state: a fault of the fetch or the decoder, or the effect of an instruction
on the state the fetch leaves, whatever supplies the random byte. -/
theorem tickWith_next_cases {run : Instr → State → Result}
    (hrun : ∀ {i : Instr} {u t : State}, run i u = .next t → Effect u i t) {s t : State}
    (h : tickWith run s = .next t) :
    (∃ c w addr, t = s.raise c s.pc w addr ∧ FaultRecord.wellShaped ⟨c, s.pc, w, addr⟩) ∨
    ∃ i, s.fault = none ∧ s.pc.toNat ≤ 0xFFE ∧ Effect s.afterFetch i t := by
  obtain ⟨r, -, e⟩ | ⟨-, hpc, e⟩ | ⟨w, -, -, -, hd, e⟩ | ⟨w, i, hf, hpc, -, -, e⟩ := tickWith_cases s run
  · cases e.symm.trans h
  · have := s.pc.isLt
    exact .inl ⟨_, _, _, Host.Outcome.next.inj (h.symm.trans e), _, rfl, by omega, by omega⟩
  · exact .inl ⟨_, _, _, Host.Outcome.next.inj (h.symm.trans e), rfl, w, rfl, hd⟩
  · exact .inr ⟨i, hf, hpc, hrun (e.symm.trans h)⟩

/-- The operation `tick` leaves a halted block as it is, and otherwise does what the CPU's tick does. -/
theorem apply_tick_cases (rnd : Byte) (s : State) :
    (apply (.tick rnd) s).1 = s ∨ tick rnd s = .next (apply (.tick rnd) s).1 := by
  cases h : tick rnd s with
  | next t =>
    right
    rw [apply, h]
  | fault f =>
    left
    rw [apply, h]
  | refused r =>
    left
    rw [apply, h]

/-- The operation `load_program` changes nothing, or loads an image that fits (20_memory.md R80 to R82). -/
theorem apply_loadProgram_cases (image : List Byte) (s : State) :
    (apply (.loadProgram image) s).1 = s ∨
    Config.programBase + image.length ≤ Config.memSize ∧ (apply (.loadProgram image) s).1 = s.loadImage image := by
  unfold apply
  dsimp only
  split
  · exact .inl rfl
  · split
    · next hfits => exact .inr ⟨of_decide_eq_true hfits, rfl⟩
    · exact .inl rfl

end Sys2Proof.Machine
end

section
/-! SUPPORT. The invariant of the reachable states (10_state.md R27, R35, R36), part by part under every kind of effect;
then the tick keeps it, and every operation of every agent does. -/

namespace Sys2Proof.Machine

/-! ### The parts of the invariant under an effect -/

theorem Effect.mem_wf {s t : State} {i : Instr} (h : Effect s i t) (hm : s.mem.wf = true) : t.mem.wf = true := by
  cases h with
  | store _ hb => exact Memory.wf_writeBlock hm hb
  | skip => simpa using hm
  | _ => exact hm

/-- PC stays below 0x10FF when the instruction lies in memory and the return addresses in use are small. -/
theorem Effect.pc_le {s t : State} {i : Instr} (h : Effect s i t) (hlo : 2 ≤ s.pc.toNat) (hhi : s.pc.toNat ≤ 0x1000)
    (hret : ∀ k : Fin 16, k.val < s.sp.val → s.stack[k].toNat ≤ 0x1000) : t.pc.toNat ≤ 0x10FE := by
  have hback : (s.pc - 2).toNat ≤ 0x10FE := by bv_omega
  cases h with
  | fault => exact hback
  | wait => exact hback
  | jump _ hw => exact hw
  | @skip _ c => cases c <;> simp <;> bv_omega
  | @call nnn =>
    rw [State.setPc_pc, toNat_zextImm]
    omega
  | ret hsp =>
    have := hret ⟨s.sp.val - 1, by omega⟩ (by show s.sp.val - 1 < s.sp.val; omega)
    exact Nat.le_trans this (by decide)
  | _ => exact Nat.le_trans hhi (by decide)

/-- A call pushes the address after it, which is at most 0x1000 (40_control_flow.md R125, R127); a return only frees
an entry. -/
theorem Effect.stack_le {s t : State} {i : Instr} (h : Effect s i t) (hhi : s.pc.toNat ≤ 0x1000)
    (hret : ∀ k : Fin 16, k.val < s.sp.val → s.stack[k].toNat ≤ 0x1000) :
    ∀ k : Fin 16, k.val < t.sp.val → t.stack[k].toNat ≤ 0x1000 := by
  cases h with
  | call hsp =>
    intro k hk
    by_cases heq : k.val = s.sp.val
    · simpa [heq] using hhi
    · have hlt : k.val < s.sp.val := by
        have : k.val < s.sp.val + 1 := hk
        omega
      simpa [Ne.symm heq] using hret k hlt
  | ret hsp =>
    intro k hk
    have : k.val < s.sp.val - 1 := hk
    exact hret k (by omega)
  | skip => simpa using hret
  | _ => exact hret

/-- The latch is as it was, or a fault has been taken at the instruction's own address. -/
theorem Effect.fault_or {s t : State} {i : Instr} (h : Effect s i t) :
    t.fault = s.fault ∨ ∃ r, t.fault = some r ∧ r.wellShaped ∧ r.pc = t.pc ∧ t.pc = s.pc - 2 ∧ t.started = true := by
  cases h with
  | fault hw => exact .inr ⟨_, rfl, hw, rfl, rfl, rfl⟩
  | skip => exact .inl (by simp)
  | _ => exact .inl rfl

theorem latchOk_of_running {s : State} (h : s.fault = none) : s.latchOk := by
  intro r hr
  rw [h] at hr
  cases hr

theorem latchOk_raise (s : State) {c : Cause} {a : Word} {w : Option Word} {addr : Option Nat}
    (h : FaultRecord.wellShaped ⟨c, a, w, addr⟩) : (s.raise c a w addr).latchOk := by
  intro r hr
  obtain rfl := Option.some.inj hr
  exact ⟨h, rfl, rfl⟩

theorem Effect.latchOk {s t : State} {i : Instr} (h : Effect s i t) (hrun : s.fault = none) : t.latchOk := by
  obtain hf | ⟨r, hr, hw, hpc, -, hstarted⟩ := h.fault_or
  · exact latchOk_of_running (hf.trans hrun)
  · intro r' hr'
    obtain rfl : r = r' := Option.some.inj (hr.symm.trans hr')
    exact ⟨hw, hpc, hstarted⟩

/-! ### The tick -/

/-- An instruction fetched from inside memory executes with PC two past its own address, with no wrap. -/
theorem State.toNat_afterFetch_pc {s : State} (h : s.pc.toNat ≤ 0xFFE) : s.afterFetch.pc.toNat = s.pc.toNat + 2 := by
  rw [State.afterFetch_pc]
  bv_omega

/-- A fault of the fetch or the decoder keeps the invariant: it writes only PC (as it was), `started` and the latch. -/
theorem State.Inv.raise {s : State} (hs : s.Inv) {c : Cause} {w : Option Word} {addr : Option Nat}
    (h : FaultRecord.wellShaped ⟨c, s.pc, w, addr⟩) : (s.raise c s.pc w addr).Inv where
  memory := hs.memory
  pcBound := hs.pcBound
  returnBound := hs.returnBound
  latch := latchOk_raise s h

/-- Execution after a fetch keeps the invariant. -/
theorem State.Inv.effect {s t : State} {i : Instr} (hs : s.Inv) (hrun : s.fault = none) (hpc : s.pc.toNat ≤ 0xFFE)
    (h : Effect s.afterFetch i t) : t.Inv where
  memory := h.mem_wf hs.memory
  pcBound := h.pc_le (by rw [toNat_afterFetch_pc hpc]; omega) (by rw [toNat_afterFetch_pc hpc]; omega) hs.returnBound
  returnBound := h.stack_le (by rw [toNat_afterFetch_pc hpc]; omega) hs.returnBound
  latch := h.latchOk hrun

/-- Every tick that answers a next state keeps the invariant, whatever supplies the random byte. -/
theorem tickWith_keeps_inv {run : Instr → State → Result}
    (hrun : ∀ {i : Instr} {u t : State}, run i u = .next t → Effect u i t) {s t : State} (hs : s.Inv)
    (h : tickWith run s = .next t) : t.Inv := by
  obtain ⟨c, w, addr, rfl, hw⟩ | ⟨i, hf, hpc, he⟩ := tickWith_next_cases hrun h
  · exact hs.raise hw
  · exact hs.effect hf hpc he

/-- Settles O49: the invariant is inductive for one step, by the kinds of effect. -/
theorem stepKeepsTheInvariant : Obligations.StepKeepsTheInvariant :=
  fun _ _ hs h => tickWith_keeps_inv effect_of_exec hs h

/-! ### The operations of the agents -/

/-- Settles O48. -/
theorem resetSatisfiesTheInvariant : Obligations.ResetSatisfiesTheInvariant where
  memory := rfl
  pcBound := by decide
  returnBound := fun k hk => absurd hk (Nat.not_lt_zero k.val)
  latch := latchOk_of_running rfl

/-- The invariant speaks of the memory, PC, the stack and the latch only. -/
theorem State.Inv.of_same {s t : State} (hs : s.Inv) (hmem : t.mem.wf = true) (hpc : t.pc = s.pc)
    (hstack : t.stack = s.stack) (hsp : t.sp = s.sp) (hfault : t.fault = s.fault) (hstarted : t.started = s.started) :
    t.Inv where
  memory := hmem
  pcBound := hpc ▸ hs.pcBound
  returnBound := by
    rw [hstack, hsp]
    exact hs.returnBound
  latch := by
    unfold State.latchOk
    rw [hfault, hpc, hstarted]
    exact hs.latch

theorem apply_keeps_inv (op : HostOp) {s : State} (hs : s.Inv) : (apply op s).1.Inv := by
  cases op with
  | reset => exact resetSatisfiesTheInvariant
  | loadProgram image =>
    obtain e | ⟨hfits, e⟩ := apply_loadProgram_cases image s
    · rwa [e]
    · rw [e]
      exact hs.of_same (Memory.wf_writeBlock hs.memory hfits) rfl rfl rfl rfl rfl
  | tick rnd =>
    obtain e | e := apply_tick_cases rnd s
    · rwa [e]
    · exact tickWith_keeps_inv effect_of_execWith hs e
  | timerTick => exact hs.of_same hs.memory rfl rfl rfl rfl rfl
  | setKey index pressed =>
    unfold apply
    dsimp only
    split
    · exact hs.of_same hs.memory rfl rfl rfl rfl rfl
    · exact hs
  | readDisplay => exact hs

/-- A history of operations keeps the invariant (20_memory.md R72). -/
theorem applyAll_keeps_inv (ops : List HostOp) {s : State} (hs : s.Inv) : (applyAll ops s).Inv := by
  induction ops generalizing s with
  | nil => exact hs
  | cons op ops ih => exact ih (apply_keeps_inv op hs)

/-- Settles O50: each operation keeps the invariant, and reset satisfies it. -/
theorem everyOperationKeepsTheInvariant : Obligations.EveryOperationKeepsTheInvariant := by
  refine ⟨fun op s => apply_keeps_inv op, ?_⟩
  rintro s ⟨ops, rfl⟩
  exact applyAll_keeps_inv ops resetSatisfiesTheInvariant

end Sys2Proof.Machine
end

section
/-! SUPPORT. Which parts of the state an instruction may change (10_state.md R24, R25, R28, R30 to R33), read off the
kinds of effect; and that none reads ST. -/

namespace Sys2Proof.Machine

/-! ### Writers of the parts -/

/-- No kind of effect touches the keys or the bit `loaded`. -/
theorem Effect.keys_loaded {s t : State} {i : Instr} (h : Effect s i t) : t.keys = s.keys ∧ t.loaded = s.loaded := by
  cases h with
  | skip => simp
  | _ => exact ⟨rfl, rfl⟩

/-- The V registers the table of 10_state.md R24 does not give the instruction keep their values. -/
theorem Effect.readV_of_not_writes {s t : State} {i : Instr} (h : Effect s i t) {r : Reg}
    (hr : i.writesReg r = false) : t.readV r = s.readV r := by
  cases h with
  | regs hvs => exact hvs r hr
  | @rnd x kk b n =>
    have hne : r ≠ x := by simpa [Instr.writesReg] using hr
    simp [hne]
  | draw =>
    have hne : r ≠ vF := by simpa [Instr.writesReg] using hr
    simp [hne]
  | skip => simp
  | _ => rfl

/-- Settles O28, by the kinds of effect. -/
theorem registersAreWrittenOnlyAsTheTableSays : Obligations.RegistersAreWrittenOnlyAsTheTableSays :=
  fun _ _ _ _ h hr => (effect_of_exec h).readV_of_not_writes hr

/-- Settles O43: each kind of effect changes only the parts it names. -/
theorem partsAreChangedOnlyByTheirWriters : Obligations.PartsAreChangedOnlyByTheirWriters := by
  intro i s t h
  have he := effect_of_exec h
  obtain ⟨hkeys, hloaded⟩ := he.keys_loaded
  refine ⟨hkeys, hloaded, ?_⟩
  cases he with
  | index hi => simpa using fun _ => hi
  | store hi => simpa using fun _ _ => hi
  | _ => simp

/-! ### The keys -/

theorem tickWith_keys {run : Instr → State → Result}
    (hrun : ∀ {i : Instr} {u t : State}, run i u = .next t → Effect u i t) {s t : State}
    (h : tickWith run s = .next t) : t.keys = s.keys := by
  obtain ⟨c, w, addr, rfl, -⟩ | ⟨i, -, -, he⟩ := tickWith_next_cases hrun h
  · rfl
  · exact he.keys_loaded.1

/-- No operation but `set_key` and `reset` writes a key (10_state.md R33). -/
theorem apply_keys {op : HostOp} (s : State) (hreset : op ≠ .reset) (hset : ∀ k b, op ≠ .setKey k b) :
    (apply op s).1.keys = s.keys := by
  cases op with
  | reset => exact absurd rfl hreset
  | setKey k b => exact absurd rfl (hset k b)
  | loadProgram image =>
    obtain e | ⟨-, e⟩ := apply_loadProgram_cases image s
    · rw [e]
    · rw [e]
      rfl
  | tick rnd =>
    obtain e | e := apply_tick_cases rnd s
    · rw [e]
    · exact tickWith_keys effect_of_execWith e
  | timerTick => rfl
  | readDisplay => rfl

/-- Settles O44. -/
theorem keysAreWrittenOnlyFromOutside : Obligations.KeysAreWrittenOnlyFromOutside :=
  ⟨by decide, fun _ _ _ h => (effect_of_exec h).keys_loaded.1, fun _ s => apply_keys s⟩

/-! ### The sound timer -/

theorem sameBut_setSt (t : State) (b : Byte) : SameBut [.st] t (t.setSt b) := by
  intro f hf
  cases f with
  | st => simp at hf
  | mem => exact fun _ => rfl
  | _ => rfl

theorem State.skipIf_setSt (s : State) (c : Bool) (b : Byte) : (s.setSt b).skipIf c = (s.skipIf c).setSt b := by
  cases c <;> rfl

/-- An instruction that does not load ST runs alike whatever ST holds, and carries it along: every condition it
branches on and every value it writes comes from the other parts. -/
theorem exec_setSt (i : Instr) (hi : ∀ x, i ≠ .ldStVx x) (s : State) (b : Byte) :
    ∃ t, exec i s = .next t ∧ exec i (s.setSt b) = .next (t.setSt b) := by
  cases i with
  | ldStVx x => exact absurd rfl (hi x)
  | ret =>
    by_cases h : s.sp.val = 0
    · exact ⟨_, exec_ret_of_empty s h, exec_ret_of_empty (s.setSt b) h⟩
    · exact ⟨_, exec_ret_of_pos s (by omega), exec_ret_of_pos (s.setSt b) (Nat.pos_of_ne_zero h)⟩
  | call nnn =>
    by_cases h : s.sp.val = 16
    · exact ⟨_, exec_call_of_full s nnn h, exec_call_of_full (s.setSt b) nnn h⟩
    · have hlt : s.sp.val < 16 := by omega
      exact ⟨_, exec_call_of_lt s nnn hlt, exec_call_of_lt (s.setSt b) nnn hlt⟩
  | seImm | sneImm | seReg | sneReg => exact ⟨_, rfl, congrArg _ (State.skipIf_setSt s _ b)⟩
  | skp x =>
    by_cases h : (s.readV x).toNat < 16
    · exact ⟨_, exec_skp_of_lt s x h, (exec_skp_of_lt (s.setSt b) x h).trans (congrArg _ (State.skipIf_setSt s _ b))⟩
    · exact ⟨_, exec_skp_of_ge s x h, exec_skp_of_ge (s.setSt b) x h⟩
  | sknp x =>
    by_cases h : (s.readV x).toNat < 16
    · exact ⟨_, exec_sknp_of_lt s x h, (exec_sknp_of_lt (s.setSt b) x h).trans (congrArg _ (State.skipIf_setSt s _ b))⟩
    · exact ⟨_, exec_sknp_of_ge s x h, exec_sknp_of_ge (s.setSt b) x h⟩
  | ldVxK x =>
    cases h : firstPressed s.keys with
    | none => exact ⟨_, exec_ldVxK_of_none s x h, exec_ldVxK_of_none (s.setSt b) x h⟩
    | some k => exact ⟨_, exec_ldVxK_of_some s x h, exec_ldVxK_of_some (s.setSt b) x h⟩
  | drw x y n =>
    cases h : outOfRange s.base n.val with
    | none => exact ⟨_, exec_drw_in s x y n h, exec_drw_in (s.setSt b) x y n h⟩
    | some bad => exact ⟨_, exec_drw_out s x y n h, exec_drw_out (s.setSt b) x y n h⟩
  | ldB x =>
    cases h : outOfRange s.base 3 with
    | none => exact ⟨_, exec_ldB_in s x h, exec_ldB_in (s.setSt b) x h⟩
    | some bad => exact ⟨_, exec_ldB_out s x h, exec_ldB_out (s.setSt b) x h⟩
  | storeRegs x =>
    cases h : outOfRange s.base (x.val + 1) with
    | none => exact ⟨_, exec_storeRegs_in s x h, exec_storeRegs_in (s.setSt b) x h⟩
    | some bad => exact ⟨_, exec_storeRegs_out s x h, exec_storeRegs_out (s.setSt b) x h⟩
  | loadRegs x =>
    cases h : outOfRange s.base (x.val + 1) with
    | none => exact ⟨_, exec_loadRegs_in s x h, exec_loadRegs_in (s.setSt b) x h⟩
    | some bad => exact ⟨_, exec_loadRegs_out s x h, exec_loadRegs_out (s.setSt b) x h⟩
  | _ => exact ⟨_, rfl, rfl⟩

/-- Settles O45: LD ST overwrites ST with the same value in both runs, every other instruction carries it along. -/
theorem soundTimerIsInvisibleToPrograms : Obligations.SoundTimerIsInvisibleToPrograms := by
  intro i s t b h
  by_cases hi : ∃ x, i = .ldStVx x
  · obtain ⟨x, rfl⟩ := hi
    obtain rfl := Host.Outcome.next.inj h
    exact ⟨s.setSt (s.readV x), rfl, sameBut_setSt (s.setSt (s.readV x)) (s.readV x), .inr rfl⟩
  · obtain ⟨u, hu, hub⟩ := exec_setSt i (fun x hx => hi ⟨x, hx⟩) s b
    obtain rfl : u = t := Host.Outcome.next.inj (hu.symm.trans h)
    exact ⟨u.setSt b, hub, sameBut_setSt u b, .inl rfl⟩

end Sys2Proof.Machine
end

section
/-! SUPPORT. Where each instruction leaves PC (10_state.md R26), first for one execution, then for the step that fetches
the instruction. -/

namespace Sys2Proof.Machine

/-! ### PC after one execution -/

/-- An instruction that neither jumps, skips nor waits leaves PC where the fetch put it. -/
theorem Effect.pc_of_not_movesPc {s t : State} {i : Instr} (h : Effect s i t) (hi : i.movesPc = false)
    (ht : t.fault = none) : t.pc = s.pc := by
  cases h with
  | fault => simp at ht
  | jump hm => simp [hm] at hi
  | skip hm => simp [hm] at hi
  | wait => simp [Instr.movesPc] at hi
  | call => simp [Instr.movesPc] at hi
  | ret => simp [Instr.movesPc] at hi
  | _ => rfl

/-- A skip at an address `a` inside memory: two more when the condition holds, with no wrap (41_skips.md R140). -/
theorem State.toNat_skipIf_pc {s : State} {a : Nat} (ha : a ≤ 0xFFE) (hpc : s.pc.toNat = a + 2) (c : Bool) :
    (s.skipIf c).pc.toNat = a + if c then 4 else 2 := by
  cases c <;> simp <;> bv_omega

/-- A state in which a fault has been taken has its latch set. -/
theorem not_raiseIn_eq_next {s t : State} {i : Instr} {c : Cause} {addr : Option Nat} (ht : t.fault = none) :
    s.raiseIn i c addr ≠ .next t := by
  intro h
  obtain rfl := Host.Outcome.next.inj h
  simp at ht

/-- A key skip that takes no fault skips by the key its register names (45_keypad.md R200). -/
theorem exec_skp_running {s t : State} {x : Reg} (h : exec (.skp x) s = .next t) (ht : t.fault = none) :
    ∃ k : Fin 16, (s.readV x).toNat = k.val ∧ t = s.skipIf s.keys[k] := by
  by_cases hk : (s.readV x).toNat < 16
  · exact ⟨⟨_, hk⟩, rfl, (Host.Outcome.next.inj ((exec_skp_of_lt s x hk).symm.trans h)).symm⟩
  · exact absurd ((exec_skp_of_ge s x hk).symm.trans h) (not_raiseIn_eq_next ht)

theorem exec_sknp_running {s t : State} {x : Reg} (h : exec (.sknp x) s = .next t) (ht : t.fault = none) :
    ∃ k : Fin 16, (s.readV x).toNat = k.val ∧ t = s.skipIf (!s.keys[k]) := by
  by_cases hk : (s.readV x).toNat < 16
  · exact ⟨⟨_, hk⟩, rfl, (Host.Outcome.next.inj ((exec_sknp_of_lt s x hk).symm.trans h)).symm⟩
  · exact absurd ((exec_sknp_of_ge s x hk).symm.trans h) (not_raiseIn_eq_next ht)

/-- A call that takes no fault has stored PC in the first free entry (10_state.md R29). -/
theorem exec_call_running {s t : State} {nnn : Imm12} (h : exec (.call nnn) s = .next t) (ht : t.fault = none) :
    t.pc = zextImm nnn ∧ ∃ k : Fin 16, k.val = s.sp.val ∧ t.stack[k] = s.pc := by
  by_cases hsp : s.sp.val = 16
  · exact absurd ((exec_call_of_full s nnn hsp).symm.trans h) (not_raiseIn_eq_next ht)
  · have hlt : s.sp.val < 16 := by omega
    obtain rfl := Host.Outcome.next.inj ((exec_call_of_lt s nnn hlt).symm.trans h)
    exact ⟨rfl, ⟨s.sp.val, hlt⟩, rfl, by simp⟩

/-- A return that takes no fault has taken PC from the last entry in use (10_state.md R29). -/
theorem exec_ret_running {s t : State} (h : exec .ret s = .next t) (ht : t.fault = none) :
    ∃ k : Fin 16, s.sp.val = k.val + 1 ∧ t.pc = s.stack[k] := by
  by_cases hsp : s.sp.val = 0
  · exact absurd ((exec_ret_of_empty s hsp).symm.trans h) (not_raiseIn_eq_next ht)
  · obtain rfl := Host.Outcome.next.inj ((exec_ret_of_pos s (by omega)).symm.trans h)
    exact ⟨⟨s.sp.val - 1, by omega⟩, by show s.sp.val = s.sp.val - 1 + 1; omega, rfl⟩

/-- The key wait leaves PC past itself when a key is down, and at its own address when none is (45_keypad.md R203). -/
theorem exec_ldVxK_pc {s t : State} {x : Reg} {a : Nat} (ha : a ≤ 0xFFE) (hpc : s.pc.toNat = a + 2)
    (h : exec (.ldVxK x) s = .next t) : t.pc.toNat = a + if ∃ k : Fin 16, s.keys[k] = true then 2 else 0 := by
  cases hk : firstPressed s.keys with
  | none =>
    obtain rfl := Host.Outcome.next.inj ((exec_ldVxK_of_none s x hk).symm.trans h)
    have hup : ¬ ∃ k : Fin 16, s.keys[k] = true := by
      rintro ⟨k, hdown⟩
      rw [firstPressed_eq_none.mp hk k] at hdown
      cases hdown
    rw [if_neg hup, State.repeatInstr_pc]
    bv_omega
  | some k =>
    obtain rfl := Host.Outcome.next.inj ((exec_ldVxK_of_some s x hk).symm.trans h)
    rw [if_pos ⟨k, (firstPressed_eq_some.mp hk).1⟩, State.writeV_pc, hpc]

/-! ### The step that fetches the instruction -/

/-- The step of an instruction fetched from inside memory is its execution after the fetch (40_control_flow.md R120). -/
theorem step_eq_exec {s : State} {i : Instr} (hs : s.fault = none) (hpc : s.pc.toNat ≤ 0xFFE)
    (hd : decode [s.mem.readByte s.pc.toNat, s.mem.readByte (s.pc.toNat + 1)] = .ok (i, [])) :
    step s = exec i s.afterFetch := by
  have hf : s.fetch = .ok (wordOfBytes (s.mem.readByte s.pc.toNat) (s.mem.readByte (s.pc.toNat + 1))) := by
    simp [State.fetch, Memory.read2_eq, hpc]
  cases hw : decodeWord (wordOfBytes (s.mem.readByte s.pc.toNat) (s.mem.readByte (s.pc.toNat + 1))) with
  | none => simp [decode, hw] at hd
  | some j =>
    obtain rfl : j = i := by simpa [decode, hw] using hd
    simp [step, tickWith, hs, hf, hw]

theorem sameBut_afterFetch (s : State) : SameBut [.pc, .started] s s.afterFetch := by
  intro f hf
  cases f with
  | pc | started => simp at hf
  | mem => exact fun _ => rfl
  | _ => rfl

/-- A step that latches leaves PC at the address it fetched from (60_exceptions.md R236). -/
theorem step_pc_of_latches {s t : State} (hs : s.fault = none) (h : step s = .next t) (ht : t.fault ≠ none) :
    t.pc = s.pc := by
  obtain ⟨c, w, addr, rfl, -⟩ | ⟨i, -, -, he⟩ := tickWith_next_cases effect_of_exec h
  · rfl
  · obtain hf | ⟨-, -, -, -, hpc, -⟩ := he.fault_or
    · exact absurd (hf.trans hs) ht
    · rw [hpc, State.afterFetch_pc]
      bv_omega

/-- Settles O42: the instructions that move PC by their own lemmas, every other one by the kinds of effect. -/
theorem pcAtTheEndOfEachStep : Obligations.PcAtTheEndOfEachStep := by
  refine ⟨rfl, fun s t => step_pc_of_latches, fun s t i hs hpc hd hstep => ?_⟩
  have hrun := step_eq_exec hs hpc hd
  have hu := State.toNat_afterFetch_pc hpc
  refine ⟨⟨s.afterFetch, hu, sameBut_afterFetch s, hrun⟩, fun ht => ?_⟩
  have h : exec i s.afterFetch = .next t := hrun.symm.trans hstep
  cases i with
  | jp nnn =>
    obtain rfl := Host.Outcome.next.inj h
    exact toNat_zextImm nnn
  | call nnn =>
    obtain ⟨hp, k, hk, hpush⟩ := exec_call_running h ht
    exact ⟨by rw [hp, toNat_zextImm], k, hk, by rw [hpush, hu]⟩
  | ret => exact exec_ret_running (s := s.afterFetch) h ht
  | jpV0 nnn =>
    obtain rfl := Host.Outcome.next.inj h
    have hp := toNat_zextImm_add_zextByte nnn (s.readV 0)
    exact ⟨hp, by show (zextImm nnn + zextByte (s.readV 0)).toNat ≤ _; omega⟩
  | seImm x kk =>
    obtain rfl := Host.Outcome.next.inj h
    simpa using State.toNat_skipIf_pc hpc hu (s.readV x == kk)
  | sneImm x kk =>
    obtain rfl := Host.Outcome.next.inj h
    simpa using State.toNat_skipIf_pc hpc hu (s.readV x != kk)
  | seReg x y =>
    obtain rfl := Host.Outcome.next.inj h
    simpa using State.toNat_skipIf_pc hpc hu (s.readV x == s.readV y)
  | sneReg x y =>
    obtain rfl := Host.Outcome.next.inj h
    simpa using State.toNat_skipIf_pc hpc hu (s.readV x != s.readV y)
  | skp x =>
    obtain ⟨k, hk, rfl⟩ := exec_skp_running h ht
    exact ⟨k, hk, State.toNat_skipIf_pc hpc hu _⟩
  | sknp x =>
    obtain ⟨k, hk, rfl⟩ := exec_sknp_running h ht
    refine ⟨k, hk, (State.toNat_skipIf_pc hpc hu _).trans ?_⟩
    rw [State.afterFetch_keys]
    cases s.keys[k] <;> rfl
  | ldVxK x => exact exec_ldVxK_pc (s := s.afterFetch) hpc hu h
  | _ =>
    have hp := (effect_of_exec h).pc_of_not_movesPc rfl ht
    simpa [hp] using hu

end Sys2Proof.Machine
end

section
/-! SUPPORT. Accesses to memory (20_memory.md R62 to R75): the checked primitives, the fault of an access outside
memory, and the fetch after a store. -/

namespace Sys2Proof.Machine

/-! ### The checked primitives -/

/-- Settles O47: a read of two bytes by `Memory.read2_eq`, a write by the laws of the raw write. -/
theorem checkedMemoryPrimitives : Obligations.CheckedMemoryPrimitives := by
  intro m a v hm
  refine ⟨rfl, fun ha => ⟨?_, if_pos ha⟩, ?_, fun ha => ?_, fun ha => ?_⟩
  · rw [Memory.read2_eq, if_neg (by omega), Nat.max_eq_left ha]
  · rintro rfl
    rw [Memory.read2_eq, if_neg (by decide)]
    rfl
  · exact ⟨_, (Memory.read2_eq m a).trans (if_pos ha), toNat_wordOfBytes _ _⟩
  · refine ⟨m.writeByte a v, if_neg (by omega), Memory.wf_writeByte hm ha v, ?_, fun c hc => ?_⟩
    · rw [Memory.readByte_writeByte hm, if_pos rfl]
    · rw [Memory.readByte_writeByte hm, if_neg hc]

/-! ### Data accesses outside memory -/

/-- The address reported is 0x1000 when the block begins inside memory, its base when it does not (decision D9). -/
theorem outOfRange_of_lt {base n : Nat} (hn : n ≠ 0) (h : 0x1000 < base + n) :
    outOfRange base n = some (if base ≤ 0xFFF then 0x1000 else base) := by
  rw [outOfRange, if_pos ⟨hn, by omega⟩]
  congr 1
  split <;> omega

/-- A fault of the executing instruction leaves the latched state of 60_exceptions.md R236. -/
theorem State.raiseIn_eq_latched (s : State) (i : Instr) (c : Cause) (addr : Option Nat) :
    s.raiseIn i c addr = .next (s.latched i c addr) := rfl

/-- Settles O34: in each of the four instructions that access memory the range check fails. -/
theorem dataAccessOutsideMemoryFaults : Obligations.DataAccessOutsideMemoryFaults := by
  intro i s hn hout
  have hbad := outOfRange_of_lt hn hout
  rw [← State.raiseIn_eq_latched]
  cases i with
  | drw x y n => exact exec_drw_out s x y n hbad
  | ldB x => exact exec_ldB_out s x hbad
  | storeRegs x => exact exec_storeRegs_out s x hbad
  | loadRegs x => exact exec_loadRegs_out s x hbad
  | _ => exact absurd rfl hn

/-! ### The bytes of a block -/

section block

variable {m : Memory} {base : Nat} {bs : List Byte} (hm : m.wf = true) (hb : base + bs.length ≤ 0x1000)

include hm hb

/-- A block write is read back. -/
theorem Memory.readByte_writeBlock_inside {k : Nat} (hk : k < bs.length) :
    (m.writeBlock base bs).readByte (base + k) = bs.getD k 0 := by
  rw [Memory.readByte_writeBlock hm hb, if_pos (by omega), Nat.add_sub_cancel_left]

theorem Memory.readByte_writeBlock_outside {c : Nat} (hc : c < base ∨ base + bs.length ≤ c) :
    (m.writeBlock base bs).readByte c = m.readByte c := by
  rw [Memory.readByte_writeBlock hm hb, if_neg (by omega)]

end block

/-- Byte `r` of the block that LD [I] Vx stores is V[r] (46_timers_font_bcd_block.md R217). -/
theorem State.getD_regsUpTo (s : State) {x r : Reg} (h : r.val ≤ x.val) :
    (s.regsUpTo x).getD r.val 0 = s.readV r := by
  have hlt : r.val < (s.regsUpTo x).length := by
    rw [State.length_regsUpTo]
    omega
  rw [List.getD_eq_getElem _ _ hlt]
  simp [State.regsUpTo, State.readV]

/-- The memory LD [I] Vx leaves holds V[0] to V[x] from I on. -/
theorem exec_storeRegs_readByte {s t : State} {x r : Reg} (hm : s.mem.wf = true) (hb : s.base + (x.val + 1) ≤ 0x1000)
    (h : exec (.storeRegs x) s = .next t) (hr : r.val ≤ x.val) :
    t.mem.readByte (s.base + r.val) = s.readV r := by
  obtain rfl := Host.Outcome.next.inj ((exec_storeRegs_in s x (outOfRange_eq_none.mpr (.inr hb))).symm.trans h)
  have hlen := s.length_regsUpTo x
  rw [State.setMem_mem, Memory.readByte_writeBlock_inside hm (by omega) (by omega), State.getD_regsUpTo s hr]

/-! ### The fetch -/

/-- A fetch from inside memory reads the two bytes at PC, the first one high (40_control_flow.md R121). -/
theorem State.fetch_of_le {s : State} (h : s.pc.toNat ≤ 0xFFE) :
    s.fetch = .ok (wordOfBytes (s.mem.readByte s.pc.toNat) (s.mem.readByte (s.pc.toNat + 1))) := by
  rw [State.fetch, Memory.read2_eq, if_pos h]

/-- Settles O41: the two bytes at PC are V0 and V1, so the step decodes the word they make. -/
theorem storeIsSeenByTheNextFetch : Obligations.StoreIsSeenByTheNextFetch := by
  intro s t x i hm hf hx hb hi h hd
  have hbase : s.pc.toNat = s.base := congrArg BitVec.toNat hi.symm
  have h0 : t.mem.readByte s.base = s.readV 0 :=
    exec_storeRegs_readByte (r := 0) hm hb h (Nat.zero_le _)
  have h1 : t.mem.readByte (s.base + 1) = s.readV 1 := exec_storeRegs_readByte (r := 1) hm hb h hx
  obtain rfl := Host.Outcome.next.inj ((exec_storeRegs_in s x (outOfRange_eq_none.mpr (.inr hb))).symm.trans h)
  refine step_eq_exec hf (by rw [State.setMem_pc]; omega) ?_
  rw [State.setMem_pc, hbase, h0, h1]
  simp only [decode, hd]

end Sys2Proof.Machine
end

section
/-! SUPPORT. The operation `load_program` (20_memory.md R80 to R83): one equation for each of its three answers, and
what sets the two bits that refuse it. -/

namespace Sys2Proof.Machine

/-! ### The three answers -/

theorem apply_loadProgram_of_closed {s : State} (image : List Byte) (h : s.loaded = true ∨ s.started = true) :
    apply (.loadProgram image) s = (s, .refused .loadNotAllowed) := by
  simp [apply, h]

theorem apply_loadProgram_of_fits {s : State} {image : List Byte} (hl : s.loaded = false) (hs : s.started = false)
    (h : 0x200 + image.length ≤ 4096) : apply (.loadProgram image) s = (s.loadImage image, .ok) := by
  simp [apply, HostOp.wellFormed, hl, hs, h]

theorem apply_loadProgram_of_too_long {s : State} {image : List Byte} (hl : s.loaded = false) (hs : s.started = false)
    (h : 4096 < 0x200 + image.length) : apply (.loadProgram image) s = (s, .programTooLarge) := by
  simp [apply, HostOp.wellFormed, hl, hs, h]

/-- A load that returns `Ok` has loaded an image that fits. -/
theorem loadImage_of_apply_ok {s t : State} {image : List Byte} (h : apply (.loadProgram image) s = (t, .ok)) :
    0x200 + image.length ≤ 4096 ∧ t = s.loadImage image := by
  by_cases hclosed : s.loaded = true ∨ s.started = true
  · cases (apply_loadProgram_of_closed image hclosed).symm.trans h
  · obtain ⟨hl, hs⟩ : s.loaded = false ∧ s.started = false := by simpa using hclosed
    by_cases hfits : 0x200 + image.length ≤ 4096
    · have e := (apply_loadProgram_of_fits hl hs hfits).symm.trans h
      exact ⟨hfits, (congrArg Prod.fst e).symm⟩
    · cases (apply_loadProgram_of_too_long hl hs (by omega)).symm.trans h

/-! ### The state a load leaves -/

theorem State.loadImage_mem (s : State) (image : List Byte) :
    (s.loadImage image).mem = s.mem.writeBlock 0x200 image := rfl

theorem sameBut_loadImage (s : State) (image : List Byte) : SameBut [.mem, .loaded] s (s.loadImage image) := by
  intro f hf
  cases f with
  | mem | loaded => simp at hf
  | _ => rfl

/-- Settles O54, by the equations of the two answers and the laws of the block write. -/
theorem loadProgramResult : Obligations.LoadProgramResult := by
  refine fun s image hm hl hs => ⟨fun hfits => ?_, apply_loadProgram_of_too_long hl hs⟩
  exact ⟨s.loadImage image, apply_loadProgram_of_fits hl hs hfits, rfl,
    fun k hk => Memory.readByte_writeBlock_inside hm hfits hk,
    fun a ha => Memory.readByte_writeBlock_outside hm hfits ha,
    Memory.wf_writeBlock hm hfits, sameBut_loadImage s image⟩

/-- Settles O55: both bytes of the fetch lie in the block the load wrote. -/
theorem loadedWordIsTheOneFetched : Obligations.LoadedWordIsTheOneFetched := by
  intro s t u image k hm h hk hmem hpc
  obtain ⟨hfits, rfl⟩ := loadImage_of_apply_ok h
  refine ⟨_, State.fetch_of_le (by omega), ?_⟩
  rw [toNat_wordOfBytes, hmem, hpc, State.loadImage_mem, Nat.add_assoc,
    Memory.readByte_writeBlock_inside hm hfits (by omega), Memory.readByte_writeBlock_inside hm hfits hk]

/-! ### What closes the door -/

theorem Effect.started {s t : State} {i : Instr} (h : Effect s i t) (hs : s.started = true) : t.started = true := by
  cases h with
  | fault => rfl
  | skip => simpa using hs
  | _ => exact hs

/-- Execution with the random byte handed over answers a next state too, as `exec` does. -/
theorem execWith_next (rnd : Byte) (i : Instr) (s : State) : ∃ t, execWith rnd i s = .next t := by
  unfold execWith
  split
  · exact ⟨_, rfl⟩
  · obtain ⟨t, ht, -⟩ := exec_effect i s
    exact ⟨t, ht⟩

/-- On a running block a tick answers a next state. -/
theorem tick_next_of_running (rnd : Byte) {s : State} (hf : s.fault = none) : ∃ t, tick rnd s = .next t := by
  obtain ⟨r, hr, -⟩ | ⟨-, -, e⟩ | ⟨w, -, -, -, -, e⟩ | ⟨w, i, -, -, -, -, e⟩ := tickWith_cases s (execWith rnd)
  · rw [hf] at hr
    cases hr
  · exact ⟨_, e⟩
  · exact ⟨_, e⟩
  · obtain ⟨t, ht⟩ := execWith_next rnd i s.afterFetch
    exact ⟨t, e.trans ht⟩

theorem apply_tick_of_next {rnd : Byte} {s t : State} (h : tick rnd s = .next t) :
    apply (.tick rnd) s = (t, t.tickResponse) := by
  rw [apply, h]

/-- A tick that answers a next state sets `started`, by a fault or by the fetch (40_control_flow.md R120). -/
theorem tick_started {rnd : Byte} {s t : State} (h : tick rnd s = .next t) : t.started = true := by
  obtain ⟨c, w, addr, rfl, -⟩ | ⟨i, -, -, he⟩ := tickWith_next_cases effect_of_execWith h
  · rfl
  · exact he.started rfl

/-- Settles O56. -/
theorem loadIsRefusedAfterLoadOrTick : Obligations.LoadIsRefusedAfterLoadOrTick := by
  refine ⟨fun s => apply_loadProgram_of_closed, fun s rnd hf => ?_, fun s t image h => ?_⟩
  · obtain ⟨t, ht⟩ := tick_next_of_running rnd hf
    rw [apply_tick_of_next ht]
    exact tick_started ht
  · obtain ⟨-, rfl⟩ := loadImage_of_apply_ok h
    rfl

end Sys2Proof.Machine
end

section
/-! SUPPORT. The fields of a word as R91 gives them, and the number of defined words of each opcode class
(30_encoding.md R97): for a class that defines only some of its words, which residues those words have, and how many
words that is. -/

namespace Sys2Proof

/-! ### The fields (R91) -/

theorem getLsbD_fieldClass (w : Word) {k : Nat} (hk : k < 4) : (fieldClass w).getLsbD k = w.getLsbD (12 + k) := by
  simp [fieldClass, hk]

/-- Settles O1: each field by its bits or its number, the overlaps by arithmetic on the word's number. -/
theorem fieldsAreTheBitsOfTheWord : Obligations.FieldsAreTheBitsOfTheWord := by
  refine fun w => ⟨fun k hk => getLsbD_fieldClass w hk, val_fieldX w, val_fieldY w, val_fieldN w, ?_, ?_, ?_⟩
  · rw [toNat_fieldKk, val_fieldY, val_fieldN]
    omega
  · rw [toNat_fieldNnn, val_fieldX, toNat_fieldKk]
    omega
  · rw [toNat_fieldClass, toNat_fieldNnn]
    omega

/-! ### Which words of a class are defined (R94) -/

/-- The classes that need no sub-opcode define all their words. -/
theorem isSome_decodeWord_of_full_class {w : Word} (h : (fieldClass w).toNat ∈ [1, 2, 3, 4, 6, 7, 10, 11, 12, 13]) :
    (decodeWord w).isSome = true := by
  simp only [List.mem_cons, List.not_mem_nil, or_false] at h
  rcases h with h | h | h | h | h | h | h | h | h | h <;> simp [decodeWord, h]

/-- Class 0 is matched by whole words (decisions D2, D3). -/
theorem isSome_decodeWord_class_0 {w : Word} (h : (fieldClass w).toNat = 0) :
    (decodeWord w).isSome = true ↔ w.toNat % 4096 ∈ [0x000, 0x0E0, 0x0EE] := by
  have hlow : w.toNat % 4096 = w.toNat := by
    rw [toNat_fieldClass] at h
    omega
  rw [hlow]
  simp only [decodeWord, h, ← BitVec.toNat_inj]
  split_ifs <;> simp_all

/-- The two classes of a register comparison need a zero low nibble (decision D3). -/
theorem isSome_decodeWord_class_5_9 {w : Word} (h : (fieldClass w).toNat = 5 ∨ (fieldClass w).toNat = 9) :
    (decodeWord w).isSome = true ↔ w.toNat % 16 ∈ [0] := by
  rw [← val_fieldN]
  rcases h with h | h <;> simp [decodeWord, h]

/-- Class 8 is dispatched on the low nibble. -/
theorem isSome_decodeWord_class_8 {w : Word} (h : (fieldClass w).toNat = 8) :
    (decodeWord w).isSome = true ↔ w.toNat % 16 ∈ [0, 1, 2, 3, 4, 5, 6, 7, 14] := by
  rw [← val_fieldN]
  simp only [decodeWord, h]
  split <;> simp_all

/-- Class E is dispatched on the low byte. -/
theorem isSome_decodeWord_class_E {w : Word} (h : (fieldClass w).toNat = 14) :
    (decodeWord w).isSome = true ↔ w.toNat % 256 ∈ [0x9E, 0xA1] := by
  rw [← toNat_fieldKk]
  simp only [decodeWord, h, ← BitVec.toNat_inj]
  split_ifs <;> simp_all

/-- Class F is dispatched on the low byte. -/
theorem isSome_decodeWord_class_F {w : Word} (h : (fieldClass w).toNat = 15) :
    (decodeWord w).isSome = true ↔
      w.toNat % 256 ∈ [0x07, 0x0A, 0x15, 0x18, 0x1E, 0x29, 0x33, 0x55, 0x65] := by
  rw [← toNat_fieldKk]
  simp only [decodeWord, h, ← BitVec.toNat_inj]
  split_ifs <;> simp_all

/-! ### Counting residues -/

theorem countP_range_mem {m : Nat} {S : List Nat} (hS : S.Nodup) (hlt : ∀ r ∈ S, r < m) :
    (List.range m).countP (fun k => decide (k ∈ S)) = S.length := by
  rw [List.countP_eq_length_filter]
  refine ((List.perm_ext_iff_of_nodup (List.nodup_range.filter _) hS).mpr fun r => ?_).length_eq
  simpa using hlt r

/-- In each of `q` periods of length `m`, every residue is met once. -/
theorem countP_range_mod_mem {m : Nat} {S : List Nat} (hS : S.Nodup) (hlt : ∀ r ∈ S, r < m) (q : Nat) :
    (List.range (q * m)).countP (fun k => decide (k % m ∈ S)) = q * S.length := by
  induction q with
  | zero => simp
  | succ q ih =>
    have hperiod : ((List.range m).map (q * m + ·)).countP (fun k => decide (k % m ∈ S)) = S.length := by
      rw [List.countP_map, ← countP_range_mem hS hlt]
      refine List.countP_congr fun k hk => ?_
      simp [Nat.mod_eq_of_lt (List.mem_range.mp hk)]
    rw [Nat.succ_mul, List.range_add, List.countP_append, ih, hperiod, Nat.succ_mul]

/-! ### The counts (R97) -/

/-- The number of defined words of the class `c`. -/
def definedCount (c : Nat) : Nat :=
  (List.range 4096).countP fun k => (decodeWord (BitVec.ofNat 16 (c * 4096 + k))).isSome

/-- The word number `k` of the class `c`. -/
theorem toNat_classWord {c k : Nat} (hc : c < 16) (hk : k < 4096) :
    (BitVec.ofNat 16 (c * 4096 + k)).toNat = c * 4096 + k :=
  (BitVec.toNat_ofNat _ _).trans (Nat.mod_eq_of_lt (by omega))

theorem toNat_fieldClass_classWord {c k : Nat} (hc : c < 16) (hk : k < 4096) :
    (fieldClass (BitVec.ofNat 16 (c * 4096 + k))).toNat = c := by
  rw [toNat_fieldClass, toNat_classWord hc hk]
  omega

/-- A class whose defined words are those with a residue in `S` modulo a divisor of 4096 meets each residue
`q = 4096 / m` times. -/
theorem definedCount_of_residues {c m q : Nat} {S : List Nat}
    (hdef : ∀ {w : Word}, (fieldClass w).toNat = c → ((decodeWord w).isSome = true ↔ w.toNat % m ∈ S))
    (hc : c < 16) (hm : q * m = 4096) (hS : S.Nodup) (hlt : ∀ r ∈ S, r < m) : definedCount c = q * S.length := by
  rw [← countP_range_mod_mem hS hlt, hm]
  refine List.countP_congr fun k hk => ?_
  have hk : k < 4096 := List.mem_range.mp hk
  have hmod : (c * 4096 + k) % m = k % m := by
    rw [← hm, ← Nat.mul_assoc, Nat.mul_add_mod_self_right]
  rw [hdef (toNat_fieldClass_classWord hc hk), toNat_classWord hc hk, hmod, decide_eq_true_iff]

theorem definedCount_0 : definedCount 0 = 3 :=
  definedCount_of_residues (q := 1) isSome_decodeWord_class_0 (by decide) rfl (by decide) (by decide)

theorem definedCount_5 : definedCount 5 = 256 :=
  definedCount_of_residues (q := 256) (fun h => isSome_decodeWord_class_5_9 (.inl h)) (by decide) rfl (by decide)
    (by decide)

theorem definedCount_8 : definedCount 8 = 2304 :=
  definedCount_of_residues (q := 256) isSome_decodeWord_class_8 (by decide) rfl (by decide) (by decide)

theorem definedCount_9 : definedCount 9 = 256 :=
  definedCount_of_residues (q := 256) (fun h => isSome_decodeWord_class_5_9 (.inr h)) (by decide) rfl (by decide)
    (by decide)

theorem definedCount_E : definedCount 14 = 32 :=
  definedCount_of_residues (q := 16) isSome_decodeWord_class_E (by decide) rfl (by decide) (by decide)

theorem definedCount_F : definedCount 15 = 144 :=
  definedCount_of_residues (q := 16) isSome_decodeWord_class_F (by decide) rfl (by decide) (by decide)

/-- Settles O6: the full classes word by word, the six others by counting residues. -/
theorem definedWordCounts : Obligations.DefinedWordCounts := by
  refine ⟨fun c hc k hk => isSome_decodeWord_of_full_class ?_, ?_⟩
  · have hlt : c < 16 := (by decide : ∀ c ∈ [1, 2, 3, 4, 6, 7, 10, 11, 12, 13], c < 16) c hc
    rwa [toNat_fieldClass_classWord hlt hk]
  · show [definedCount 0, definedCount 5, definedCount 8, definedCount 9, definedCount 14, definedCount 15] = _
    rw [definedCount_0, definedCount_5, definedCount_8, definedCount_9, definedCount_E, definedCount_F]

end Sys2Proof
end

section
/-! SUPPORT. Frames of the state's updates, and the control-flow instructions (40_control_flow.md R120 to R129): the
tick that runs the decoded instruction, and the results of the jumps, of CALL and of RET. -/

namespace Sys2Proof.Machine

/-! ### Frames: an update changes the part it names, and frames compose -/

theorem SameBut.refl (fs : List Field) (s : State) : SameBut fs s s := by
  intro f _
  cases f with
  | mem => exact fun _ => rfl
  | _ => rfl

theorem SameBut.trans {fs gs : List Field} {s t u : State} (hst : SameBut fs s t) (htu : SameBut gs t u) :
    SameBut (fs ++ gs) s u := by
  intro f hf
  rw [List.mem_append, not_or] at hf
  have h₁ := hst f hf.1
  have h₂ := htu f hf.2
  cases f with
  | mem => exact fun a => (h₂ a).trans (h₁ a)
  | _ => exact Eq.trans h₂ h₁

theorem SameBut.mono {fs gs : List Field} {s t : State} (h : SameBut fs s t) (hsub : fs ⊆ gs) : SameBut gs s t :=
  fun f hf => h f fun hmem => hf (hsub hmem)

variable (s : State)

theorem sameBut_setPc (pc : Word) : SameBut [.pc] s (s.setPc pc) := by
  intro f hf
  cases f with
  | pc => simp at hf
  | mem => exact fun _ => rfl
  | _ => rfl

theorem sameBut_setSp (sp : Fin 17) : SameBut [.sp] s (s.setSp sp) := by
  intro f hf
  cases f with
  | sp => simp at hf
  | mem => exact fun _ => rfl
  | _ => rfl

theorem sameBut_setStack (stack : Vector Word 16) : SameBut [.stack] s (s.setStack stack) := by
  intro f hf
  cases f with
  | stack => simp at hf
  | mem => exact fun _ => rfl
  | _ => rfl

theorem sameBut_setFb (fb : Screen) : SameBut [.fb] s (s.setFb fb) := by
  intro f hf
  cases f with
  | fb => simp at hf
  | mem => exact fun _ => rfl
  | _ => rfl

/-! ### The tick that runs the decoded instruction -/

theorem decodeWord_of_decode {hi lo : Byte} {i : Instr} (h : decode [hi, lo] = .ok (i, [])) :
    decodeWord (wordOfBytes hi lo) = some i := by
  cases hw : decodeWord (wordOfBytes hi lo) with
  | none => simp [decode, hw] at h
  | some j => simpa [decode, hw] using h

variable {s}

/-- Whatever executes the instruction, a tick of a running block hands it the instruction decoded at PC and the state
the fetch leaves (40_control_flow.md R120, R121). -/
theorem tickWith_eq_run (run : Instr → State → Result) {i : Instr} (hs : s.fault = none) (hpc : s.pc.toNat ≤ 0xFFE)
    (hd : decode [s.mem.readByte s.pc.toNat, s.mem.readByte (s.pc.toNat + 1)] = .ok (i, [])) :
    tickWith run s = run i s.afterFetch := by
  simp only [tickWith, hs, State.fetch_of_le hpc, decodeWord_of_decode hd]

/-- Settles O7: `step` and `tick` are the same tick, with two executors. -/
theorem stepRunsDecodedInstruction : Obligations.StepRunsDecodedInstruction :=
  fun _ _ rnd hs hpc hd => ⟨tickWith_eq_run exec hs hpc hd, tickWith_eq_run (execWith rnd) hs hpc hd⟩

/-! ### Results of the control-flow instructions -/

/-- Settles O16. -/
theorem clearAndJumpResults : Obligations.ClearAndJumpResults :=
  ⟨fun s => ⟨_, rfl, Screen.pixel_clear, sameBut_setFb s _⟩,
    fun s nnn => ⟨_, rfl, toNat_zextImm nnn, sameBut_setPc s _⟩⟩

/-- Settles O17: the sum of the offset jump does not wrap. -/
theorem nopAndOffsetJumpResults : Obligations.NopAndOffsetJumpResults :=
  ⟨fun s => ⟨_, rfl, .refl [] s⟩,
    fun s nnn => ⟨_, rfl, toNat_zextImm_add_zextByte nnn (s.readV 0), sameBut_setPc s _⟩⟩

/-- Settles O18: the two equations of CALL, the frame composed of its three updates. -/
theorem callPushesTheReturnAddress : Obligations.CallPushesTheReturnAddress := by
  refine ⟨fun s nnn h => ⟨_, exec_call_of_lt s nnn h, rfl, ?_, fun k hk => ?_, toNat_zextImm nnn, ?_⟩,
    fun s nnn => exec_call_of_full s nnn⟩
  · exact Vector.getElem_set_self h
  · exact Vector.getElem_set_ne h k.isLt hk.symm
  · exact (((sameBut_setStack s _).trans (sameBut_setSp _ _)).trans (sameBut_setPc _ _)).mono (by decide)

/-- Settles O19: the two equations of RET, the frame composed of its two updates. -/
theorem returnPopsTheReturnAddress : Obligations.ReturnPopsTheReturnAddress := by
  refine ⟨fun s k hk => ⟨_, exec_ret_of_pos s (by omega), ?_, ?_, ?_⟩, exec_ret_of_empty⟩
  · show s.sp.val - 1 = k.val
    omega
  · have hlast : s.sp.val - 1 = k.val := by omega
    simp [hlast]
  · exact ((sameBut_setSp s _).trans (sameBut_setPc _ _)).mono (by decide)

/-- Settles O20: CALL leaves its return address in the slot that RET reads, and RET writes no slot. -/
theorem returnUndoesCall : Obligations.ReturnUndoesCall := by
  intro s t u nnn hlt hcall hstack hsp
  obtain ⟨t', ht', hspCall, hpush, hkeep, -, -⟩ := callPushesTheReturnAddress.1 s nnn hlt
  obtain rfl : t' = t := Host.Outcome.next.inj (ht'.symm.trans hcall)
  obtain ⟨w, hret, hspRet, hpop, hframe⟩ :=
    returnPopsTheReturnAddress.1 u ⟨s.sp.val, hlt⟩ (by rw [hsp, hspCall])
  have hw : w.stack = t'.stack := (hframe .stack (by decide) : w.stack = u.stack).trans hstack
  refine ⟨w, hret, ?_, Fin.ext hspRet, fun k hk => ?_, hframe⟩
  · rw [hpop, hstack]
    exact hpush
  · rw [hw]
    exact hkeep k (Nat.ne_of_lt hk)

end Sys2Proof.Machine
end

section
/-! SUPPORT. The move of PC that a skip makes and its frame (41_skips.md R140), and the results of the four register
skips (R141 to R144). -/

namespace Sys2Proof.Machine

variable (s : State)

theorem sameBut_skipIf (c : Bool) : SameBut [.pc] s (s.skipIf c) := by
  cases c with
  | false => exact .refl _ s
  | true => exact sameBut_setPc s _

/-- A skip whose Boolean test decides `p` adds 2 to PC when `p` holds. -/
theorem State.skipIf_pc_of_iff {c : Bool} {p : Prop} [Decidable p] (h : c = true ↔ p) :
    (s.skipIf c).pc = s.pc + if p then 2 else 0 := by
  rw [State.skipIf_pc]
  by_cases hp : p
  · rw [if_pos (h.mpr hp), if_pos hp]
  · rw [if_neg (mt h.mp hp), if_neg hp, add_zero]

/-- A skip whose Boolean test decides `¬ p` adds 2 to PC when `p` fails. -/
theorem State.skipIf_pc_of_iff_not {c : Bool} {p : Prop} [Decidable p] (h : c = true ↔ ¬ p) :
    (s.skipIf c).pc = s.pc + if p then 0 else 2 := by
  rw [State.skipIf_pc_of_iff s h, ite_not]

/-- Settles O22: SE tests equality and SNE inequality, and both make the move of `skipIf`. -/
theorem registerSkipResults : Obligations.RegisterSkipResults :=
  fun s _ _ _ =>
    ⟨⟨_, rfl, s.skipIf_pc_of_iff beq_iff_eq, sameBut_skipIf s _⟩,
      ⟨_, rfl, s.skipIf_pc_of_iff_not bne_iff_ne, sameBut_skipIf s _⟩,
      ⟨_, rfl, s.skipIf_pc_of_iff beq_iff_eq, sameBut_skipIf s _⟩,
      ⟨_, rfl, s.skipIf_pc_of_iff_not bne_iff_ne, sameBut_skipIf s _⟩⟩

end Sys2Proof.Machine
end

section
/-! SUPPORT. Reads after the two writes to V registers and their frames, the numbers of the results and flags, and the
results of the register loads and of the arithmetic and shift instructions (42_alu.md R150 to R156, R160 to R164). -/

namespace Sys2Proof.Machine

/-! ### The two writes: what they leave -/

section Writes

variable (s : State)

theorem State.readV_writeV_self (x : Reg) (b : Byte) : (s.writeV x b).readV x = b := by
  rw [State.readV_writeV, if_pos rfl]

theorem sameRegsBut_writeV (x : Reg) (b : Byte) : SameRegsBut [x] s (s.writeV x b) := by
  intro r hr
  rw [State.readV_writeV, if_neg (by simpa using hr)]

theorem sameBut_setV (v : Vector Byte 16) : SameBut [.v] s (s.setV v) := by
  intro f hf
  cases f with
  | v => simp at hf
  | mem => exact fun _ => rfl
  | _ => rfl

theorem sameBut_writeV (x : Reg) (b : Byte) : SameBut [.v] s (s.writeV x b) := sameBut_setV s _

theorem State.readV_writeResultThenFlag_vF (x : Reg) (b : Byte) (f : Bool) :
    (s.writeResultThenFlag x b f).readV vF = flagByte f := by
  rw [State.readV_writeResultThenFlag, if_pos rfl]

theorem State.readV_writeResultThenFlag_of_ne {x : Reg} (hx : x ≠ vF) (b : Byte) (f : Bool) :
    (s.writeResultThenFlag x b f).readV x = b := by
  rw [State.readV_writeResultThenFlag, if_neg hx, if_pos rfl]

theorem sameRegsBut_writeResultThenFlag (x : Reg) (b : Byte) (f : Bool) :
    SameRegsBut [x, vF] s (s.writeResultThenFlag x b f) := by
  intro r hr
  rw [List.mem_cons, List.mem_singleton, not_or] at hr
  rw [State.readV_writeResultThenFlag, if_neg hr.2, if_neg hr.1]

theorem sameBut_writeResultThenFlag (x : Reg) (b : Byte) (f : Bool) :
    SameBut [.v] s (s.writeResultThenFlag x b f) :=
  ((sameBut_writeV s x b).trans (sameBut_writeV _ vF _)).mono (by decide)

end Writes

/-- What an instruction that writes a result and then a flag leaves, given the numbers of the two (R152). -/
theorem exec_result_and_flag {i : Instr} {s : State} {x : Reg} {result : Byte} {flag : Bool} {m n : Nat}
    (h : exec i s = .next (s.writeResultThenFlag x result flag)) (hresult : result.toNat = m)
    (hflag : (flagByte flag).toNat = n) :
    ∃ t, exec i s = .next t ∧ (x ≠ vF → (t.readV x).toNat = m) ∧ (t.readV vF).toNat = n ∧
      SameRegsBut [x, vF] s t ∧ SameBut [.v] s t := by
  refine ⟨_, h, fun hx => ?_, ?_, sameRegsBut_writeResultThenFlag s x _ _, sameBut_writeResultThenFlag s x _ _⟩
  · rw [State.readV_writeResultThenFlag_of_ne s hx, hresult]
  · rw [State.readV_writeResultThenFlag_vF, hflag]

/-! ### Results and flags as numbers -/

@[simp] theorem toNat_flagByte (b : Bool) : (flagByte b).toNat = b.toNat := by
  cases b <;> rfl

theorem toNat_flagByte_decide (p : Prop) [Decidable p] : (flagByte (decide p)).toNat = if p then 1 else 0 := by
  rw [toNat_flagByte, Bool.toNat, Bool.cond_decide]

/-- The difference of two bytes, borrowing 256 when the subtrahend is the larger (R151). -/
theorem toNat_byte_sub (a b : Byte) :
    (a - b).toNat = if b.toNat ≤ a.toNat then a.toNat - b.toNat else a.toNat + 256 - b.toNat := by
  by_cases h : b.toNat ≤ a.toNat
  · rw [if_pos h, BitVec.toNat_sub_of_le h]
  · rw [if_neg h, BitVec.toNat_sub]
    omega

/-- Bit 0 is the remainder of the halving. -/
theorem toNat_flagByte_shiftedOutRight (a : Byte) : (flagByte (shiftedOutRight a)).toNat = a.toNat % 2 := by
  rw [toNat_flagByte, shiftedOutRight, BitVec.getLsbD, Nat.toNat_testBit, pow_zero, Nat.div_one]

/-- Bit 7 is the top bit, so nothing stands above it. -/
theorem toNat_flagByte_shiftedOutLeft (a : Byte) : (flagByte (shiftedOutLeft a)).toNat = a.toNat / 128 := by
  rw [toNat_flagByte, shiftedOutLeft, BitVec.getLsbD, Nat.toNat_testBit]
  omega

/-! ### Results of the instructions -/

/-- Settles O24: each of the three is one write to V[x]. -/
theorem loadAndAddImmediateResults : Obligations.LoadAndAddImmediateResults := by
  refine fun s x y kk =>
    ⟨⟨_, rfl, s.readV_writeV_self x _, sameRegsBut_writeV s x _, sameBut_writeV s x _⟩,
      ⟨_, rfl, ?_, sameRegsBut_writeV s x _, sameBut_writeV s x _⟩,
      ⟨_, rfl, s.readV_writeV_self x _, sameRegsBut_writeV s x _, sameBut_writeV s x _⟩⟩
  rw [State.readV_writeV_self, BitVec.toNat_add]

/-- Settles O26: the result and the flag are numbers of the operands as read before the two writes. -/
theorem addAndSubtractResults : Obligations.AddAndSubtractResults := by
  rintro s x y _ _ rfl rfl
  exact ⟨exec_result_and_flag rfl (BitVec.toNat_add _ _) (toNat_flagByte_decide _),
    exec_result_and_flag rfl (toNat_byte_sub _ _) (toNat_flagByte_decide _),
    exec_result_and_flag rfl (toNat_byte_sub _ _) (toNat_flagByte_decide _)⟩

/-- Settles O27: the shifts by one bit are the halving and the doubling of V[x], which alone is read. -/
theorem shiftResults : Obligations.ShiftResults := by
  rintro s x y _ rfl
  refine ⟨exec_result_and_flag rfl ?_ (toNat_flagByte_shiftedOutRight _),
    exec_result_and_flag rfl ?_ (toNat_flagByte_shiftedOutLeft _)⟩
  · rw [BitVec.toNat_ushiftRight, Nat.shiftRight_one]
  · rw [BitVec.toNat_shiftLeft, Nat.shiftLeft_eq, pow_one]

end Sys2Proof.Machine
end

section
/-! SUPPORT. Execution with a random byte handed over against execution with the free stream (43_index_random.md R183),
the tick on top of them and what the bus returns for it (40_control_flow.md R120), and the results of the index-register
instructions and of RND (43_index_random.md R180 to R182). -/

namespace Sys2Proof.Machine

variable (s : State)

/-! ### Frames of the two updates -/

theorem sameBut_setI (i : Word) : SameBut [.i] s (s.setI i) := by
  intro f hf
  cases f with
  | i => simp at hf
  | mem => exact fun _ => rfl
  | _ => rfl

theorem sameBut_setDraws (draws : Nat) : SameBut [.draws] s (s.setDraws draws) := by
  intro f hf
  cases f with
  | draws => simp at hf
  | mem => exact fun _ => rfl
  | _ => rfl

/-! ### The random byte -/

/-- Everything RND does, on the byte `rnd` handed to it. -/
theorem execWith_rnd (rnd : Byte) (x : Reg) (kk : Byte) :
    execWith rnd (.rnd x kk) s = .next ((s.writeV x (rnd &&& kk)).setDraws (s.draws + 1)) := rfl

theorem execWith_of_ne_rnd (rnd : Byte) {i : Instr} (hi : ∀ x kk, i ≠ .rnd x kk) : execWith rnd i s = exec i s := by
  unfold execWith
  split
  · exact absurd rfl (hi _ _)
  · rfl

/-- `exec` is execution with the next byte of the free stream, for RND by its definition and for every other instruction
because it uses no byte. -/
theorem exec_eq_execWith_free (i : Instr) : exec i s = execWith (Config.rnd s.draws) i s := by
  by_cases hi : ∃ x kk, i = .rnd x kk
  · obtain ⟨x, kk, rfl⟩ := hi
    rfl
  · push Not at hi
    exact (execWith_of_ne_rnd s _ hi).symm

/-- Settles O31: no other instruction reaches the arm of `execWith` that reads the byte. -/
theorem onlyRndUsesTheRandomByte : Obligations.OnlyRndUsesTheRandomByte :=
  fun _ s r1 r2 hi =>
    ⟨(execWith_of_ne_rnd s r1 hi).trans (execWith_of_ne_rnd s r2 hi).symm, execWith_of_ne_rnd s r1 hi⟩

theorem getLsbD_readV_maskedByte (rnd : Byte) (x : Reg) (kk : Byte) (draws k : Nat) :
    (((s.writeV x (rnd &&& kk)).setDraws draws).readV x).getLsbD k = (rnd.getLsbD k && kk.getLsbD k) := by
  rw [State.readV_setDraws, State.readV_writeV_self, BitVec.getLsbD_and]

/-- Settles O30: the masked byte bit by bit, the frame composed of the two updates. -/
theorem randomByteIsMasked : Obligations.RandomByteIsMasked := by
  refine fun s x kk rnd => ⟨⟨_, execWith_rnd s rnd x kk, fun k _ => getLsbD_readV_maskedByte s rnd x kk _ k, rfl,
    sameRegsBut_writeV s x _, (sameBut_writeV s x _).trans (sameBut_setDraws _ _)⟩, ?_⟩
  refine ⟨_, exec_eq_execWith_free s _, execWith_rnd s _ x kk, fun k _ hk => ?_⟩
  rw [getLsbD_readV_maskedByte, hk, Bool.and_false]

/-! ### The index register -/

/-- Settles O29: the immediate and the byte keep their numbers as words, and the sum is that of words. -/
theorem indexRegisterResults : Obligations.IndexRegisterResults := by
  refine fun s nnn x => ⟨⟨_, rfl, toNat_zextImm nnn, sameBut_setI s _⟩, ⟨_, rfl, ?_, sameBut_setI s _⟩⟩
  rw [State.setI_i, BitVec.toNat_add, toNat_zextByte]

/-! ### The tick -/

variable {s}

/-- A tick depends on its executor only at the state the fetch leaves. -/
theorem tickWith_congr {run run' : Instr → State → Result} (h : ∀ i, run i s.afterFetch = run' i s.afterFetch) :
    tickWith run s = tickWith run' s := by
  simp only [tickWith, h]

theorem State.tickResponse_of_running (h : s.fault = none) : s.tickResponse = .ok := by
  rw [State.tickResponse, h]

theorem State.tickResponse_of_latched {r : FaultRecord} (h : s.fault = some r) : s.tickResponse = .fault r := by
  rw [State.tickResponse, h]

/-- Settles O8: the fetch uses no byte of the stream, so the byte that is next before the tick is the one `exec` takes;
the bus returns the latch of the state the tick answers. -/
theorem stepIsTheTickOfTheFreeByte : Obligations.StepIsTheTickOfTheFreeByte := by
  refine ⟨fun s => tickWith_congr fun i => exec_eq_execWith_free s.afterFetch i, fun s t rnd h => ?_⟩
  rw [apply_tick_of_next h]
  exact ⟨rfl, State.tickResponse_of_running, fun _ => State.tickResponse_of_latched⟩

end Sys2Proof.Machine
end

section
/-! SUPPORT. The draw in the terms of the statements (44_draw.md R190 to R196): the pixels a sprite in memory covers, the
screen and the flag DRW leaves, and the second draw over the first. -/

namespace Sys2Proof.Machine

variable {s u : State} {n : Nat} {py : Fin 32} {px : Fin 64}

/-! ### The covered pixels -/

/-- The pixels the loop touches for the rows read at I are the covered ones. -/
theorem mem_spriteTargets_readBlock {x0 y0 : Byte} :
    (py, px) ∈ spriteTargets x0 y0 0 (s.mem.readBlock s.base n) ↔ s.spriteCovers x0.toNat y0.toNat n py px := by
  rw [mem_spriteTargets, Memory.length_readBlock]
  refine exists_congr fun r => exists_congr fun c => and_congr_right fun hr => and_congr_right fun _ => ?_
  rw [Memory.getD_readBlock _ _ _ _ hr, spriteBit, drawRow, drawColumn, Fin.ext_iff, Fin.ext_iff, Fin.val_ofNat,
    Fin.val_ofNat, Nat.zero_add]

/-- Which pixels are covered depends on I and on what memory reads, and on nothing else of the state. -/
theorem State.spriteCovers_congr (hi : u.i = s.i) (hm : ∀ a, u.mem.readByte a = s.mem.readByte a) (x0 y0 : Nat) :
    u.spriteCovers x0 y0 n py px ↔ s.spriteCovers x0 y0 n py px := by
  simp only [State.spriteCovers, State.base, hi, hm]

/-! ### The sprite at I, drawn -/

section Sprite

variable (x0 y0 : Byte) (hn : n ≤ 32)

include hn

theorem drawSprite_pixel_of_covers (h : s.spriteCovers x0.toNat y0.toNat n py px) :
    (drawSprite s.fb x0 y0 (s.mem.readBlock s.base n)).1.pixel py px = !s.fb.pixel py px := by
  rw [(drawSprite_spec s.fb x0 y0 (by rwa [Memory.length_readBlock])).1,
    decide_eq_true (mem_spriteTargets_readBlock.mpr h), Bool.xor_true]

theorem drawSprite_pixel_of_not_covers (h : ¬ s.spriteCovers x0.toNat y0.toNat n py px) :
    (drawSprite s.fb x0 y0 (s.mem.readBlock s.base n)).1.pixel py px = s.fb.pixel py px := by
  rw [(drawSprite_spec s.fb x0 y0 (by rwa [Memory.length_readBlock])).1,
    decide_eq_false (mt mem_spriteTargets_readBlock.mp h), Bool.xor_false]

theorem drawSprite_collides_iff :
    (drawSprite s.fb x0 y0 (s.mem.readBlock s.base n)).2 = true ↔
      ∃ py px, s.spriteCovers x0.toNat y0.toNat n py px ∧ s.fb.pixel py px = true := by
  rw [(drawSprite_spec s.fb x0 y0 (by rwa [Memory.length_readBlock])).2, Prod.exists]
  simp only [mem_spriteTargets_readBlock]

end Sprite

/-! ### The instruction -/

theorem State.readV_writeFlag_vF (s : State) (f : Bool) : (s.writeFlag f).readV vF = flagByte f :=
  s.readV_writeV_self vF _

/-- Settles O32: the screen and the flag of the sprite drawn, the frame composed of the two updates. -/
theorem drawFlipsExactlyTheCoveredPixels : Obligations.DrawFlipsExactlyTheCoveredPixels := by
  intro s x y n hin
  have hn : n.val ≤ 32 := by omega
  have hflag := drawSprite_collides_iff (s := s) (s.readV x) (s.readV y) hn
  refine ⟨_, exec_drw_in s x y n (outOfRange_eq_none.mpr hin),
    fun _ _ => drawSprite_pixel_of_covers _ _ hn, fun _ _ => drawSprite_pixel_of_not_covers _ _ hn,
    fun hlit => ?_, fun hoff => ?_, sameRegsBut_writeV _ vF _,
    ((sameBut_setFb s _).trans (sameBut_writeV _ vF _)).mono (by decide)⟩
  · rw [State.readV_writeFlag_vF, hflag.mpr hlit]
    rfl
  · have hnone : ¬ ∃ py px, s.spriteCovers (s.readV x).toNat (s.readV y).toNat n.val py px ∧
        s.fb.pixel py px = true := by
      rintro ⟨py, px, hcov, hlit⟩
      exact Bool.false_ne_true ((hoff py px hcov).symm.trans hlit)
    rw [State.readV_writeFlag_vF, Bool.eq_false_iff.mpr (mt hflag.mp hnone)]
    rfl

/-- Settles O33: both draws cover the same pixels, so each covered pixel is inverted twice, and the second draw meets it
lit exactly where it was off before the first. -/
theorem drawingTwiceRestoresTheScreen : Obligations.DrawingTwiceRestoresTheScreen := by
  intro s t u x y x' y' n hin hdraw hfb hi hm hx hy
  obtain ⟨t', ht', hinvT, hkeepT, -⟩ := drawFlipsExactlyTheCoveredPixels s x y n hin
  obtain rfl : t' = t := Host.Outcome.next.inj (ht'.symm.trans hdraw)
  have hbase : u.base = s.base := congrArg BitVec.toNat hi
  obtain ⟨w, hw, hinvW, hkeepW, hlitW, hoffW, -⟩ := drawFlipsExactlyTheCoveredPixels u x' y' n (by rwa [hbase])
  simp only [hx, hy, hfb, State.spriteCovers_congr hi hm] at hinvW hkeepW hlitW hoffW
  refine ⟨w, hw, Screen.eq_of_pixel_eq fun py px => ?_, fun hone => ?_, ?_⟩
  · by_cases hcov : s.spriteCovers (s.readV x).toNat (s.readV y).toNat n.val py px
    · rw [hinvW py px hcov, hinvT py px hcov, Bool.not_not]
    · rw [hkeepW py px hcov, hkeepT py px hcov]
  · by_contra hnone
    have hzero : w.readV vF = 0 := hoffW fun py px hcov => by
      rw [hinvT py px hcov, Bool.not_eq_false']
      by_contra hoff
      exact hnone ⟨py, px, hcov, Bool.eq_false_iff.mpr hoff⟩
    exact absurd (hzero.symm.trans hone) (by decide)
  · rintro ⟨py, px, hcov, hoff⟩
    exact hlitW ⟨py, px, hcov, by rw [hinvT py px hcov, hoff, Bool.not_false]⟩

end Sys2Proof.Machine
end

section
/-! SUPPORT. The key skips for the key their register names (45_keypad.md R200 to R202), and the results of the keypad
instructions. -/

namespace Sys2Proof.Machine

variable (s : State) (x : Reg)

/-! ### The skips by a key that exists (R201, R202) -/

section KeySkips

variable {k : Fin 16} (hk : (s.readV x).toNat = k.val)

include hk

theorem exec_skp_of_key : exec (.skp x) s = .next (s.skipIf s.keys[k]) := by
  simpa only [hk, Fin.getElem_fin] using exec_skp_of_lt s x (hk ▸ k.isLt)

theorem exec_sknp_of_key : exec (.sknp x) s = .next (s.skipIf (!s.keys[k])) := by
  simpa only [hk, Fin.getElem_fin] using exec_sknp_of_lt s x (hk ▸ k.isLt)

end KeySkips

/-- Settles O23: SKP tests that the key is down and SKNP that it is not, and an index that is no key takes the fault. -/
theorem keySkipResults : Obligations.KeySkipResults := by
  refine ⟨fun s x k hk => ⟨?_, ?_⟩, fun s x hk => ?_⟩
  · exact ⟨_, exec_skp_of_key s x hk, s.skipIf_pc_of_iff Iff.rfl, sameBut_skipIf s _⟩
  · have hup : (!s.keys[k]) = true ↔ ¬ s.keys[k] = true := by rw [Bool.not_eq_true', Bool.not_eq_true]
    exact ⟨_, exec_sknp_of_key s x hk, s.skipIf_pc_of_iff_not hup, sameBut_skipIf s _⟩
  · have hge : ¬ (s.readV x).toNat < 16 := by omega
    exact ⟨exec_skp_of_ge s x hge, exec_sknp_of_ge s x hge⟩

/-! ### The key wait (R203, R204) -/

/-- The index of a key fits in a byte. -/
theorem toNat_keyByte (k : Fin 16) : (BitVec.ofNat 8 k.val).toNat = k.val :=
  (BitVec.toNat_ofNat k.val 8).trans (Nat.mod_eq_of_lt (by omega))

theorem sameBut_repeatInstr : SameBut [.pc] s s.repeatInstr := sameBut_setPc s _

/-- Settles O35: the search for a pressed key finds the least one, or none. -/
theorem keyWaitResults : Obligations.KeyWaitResults := by
  refine ⟨fun s x k hdown hup => ?_, fun s x hup => ?_⟩
  · have hfirst : firstPressed s.keys = some k := firstPressed_eq_some.mpr ⟨hdown, hup⟩
    refine ⟨_, exec_ldVxK_of_some s x hfirst, ?_, sameRegsBut_writeV s x _, sameBut_writeV s x _⟩
    rw [State.readV_writeV_self, toNat_keyByte]
  · have hnone : firstPressed s.keys = none := firstPressed_eq_none.mpr hup
    exact ⟨_, exec_ldVxK_of_none s x hnone, s.repeatInstr_pc, sameBut_repeatInstr s⟩

end Sys2Proof.Machine
end

section
/-! SUPPORT. The frames of the updates of DT and memory, the numbers of the font address and of the decimal digits, and
the results of the timer, font, BCD and block-transfer instructions (46_timers_font_bcd_block.md R212 to R218). -/

namespace Sys2Proof.Machine

variable (s : State)

/-! ### Frames of the two updates -/

theorem sameBut_setDt (b : Byte) : SameBut [.dt] s (s.setDt b) := by
  intro f hf
  cases f with
  | dt => simp at hf
  | mem => exact fun _ => rfl
  | _ => rfl

theorem sameBut_setMem (m : Memory) : SameBut [.mem] s (s.setMem m) := by
  intro f hf
  cases f with
  | mem => simp at hf
  | _ => rfl

/-! ### Timers and the font address (R212 to R215) -/

/-- Settles O36: each of the three is one update, whose frame is known. -/
theorem timerAccessResults : Obligations.TimerAccessResults :=
  fun s x =>
    ⟨⟨_, rfl, s.readV_writeV_self x _, sameRegsBut_writeV s x _, sameBut_writeV s x _⟩,
      ⟨_, rfl, s.setDt_dt _, sameBut_setDt s _⟩, ⟨_, rfl, s.setSt_st _, sameBut_setSt s _⟩⟩

/-- A number that fits the width is the number of its word. -/
theorem toNat_ofNat_of_lt {w n : Nat} (h : n < 2 ^ w) : (BitVec.ofNat w n).toNat = n :=
  (BitVec.toNat_ofNat n w).trans (Nat.mod_eq_of_lt h)

/-- The font address of a byte is at most 0x54B, so it does not wrap, whatever the digit (decision D11). -/
theorem toNat_fontAddress (digit : Byte) : (fontAddress digit).toNat = 0x50 + digit.toNat * 5 := by
  have hlt : 0x50 + digit.toNat * 5 < 2 ^ 16 := by omega
  exact toNat_ofNat_of_lt hlt

/-- Settles O37: one update of I, by an address that does not wrap. -/
theorem fontAddressResult : Obligations.FontAddressResult :=
  fun s _ => ⟨_, rfl, toNat_fontAddress _, sameBut_setI s _⟩

/-! ### Decimal digits (R216) -/

theorem toNat_bcdDigits_hundreds (b : Byte) : ((bcdDigits b).getD 0 0).toNat = b.toNat / 100 :=
  toNat_ofNat_of_lt (by omega)

theorem toNat_bcdDigits_tens (b : Byte) : ((bcdDigits b).getD 1 0).toNat = b.toNat / 10 % 10 :=
  toNat_ofNat_of_lt (by omega)

theorem toNat_bcdDigits_ones (b : Byte) : ((bcdDigits b).getD 2 0).toNat = b.toNat % 10 :=
  toNat_ofNat_of_lt (by omega)

/-- Settles O38: the block of the three digits, written inside memory. -/
theorem bcdStoresThreeDigits : Obligations.BcdStoresThreeDigits := by
  intro s x hm hb
  have hdigit {k : Nat} (hk : k < 3) := Memory.readByte_writeBlock_inside (bs := bcdDigits (s.readV x)) hm hb hk
  refine ⟨_, exec_ldB_in s x (outOfRange_eq_none.mpr (.inr hb)), ?_, ?_, ?_,
    fun a ha => Memory.readByte_writeBlock_outside hm hb ha, Memory.wf_writeBlock hm hb, sameBut_setMem s _⟩
  · rw [← toNat_bcdDigits_hundreds, ← hdigit (by decide), Nat.add_zero, State.setMem_mem]
  · rw [← toNat_bcdDigits_tens, ← hdigit (by decide), State.setMem_mem]
  · rw [← toNat_bcdDigits_ones, ← hdigit (by decide), State.setMem_mem]

/-! ### Block transfers (R217, R218) -/

/-- Settles O39: the block of the x + 1 registers, written inside memory. -/
theorem storeRegistersWritesTheBlock : Obligations.StoreRegistersWritesTheBlock := by
  intro s x hm hb
  have hexec := exec_storeRegs_in s x (outOfRange_eq_none.mpr (.inr hb))
  have hlen := s.length_regsUpTo x
  have hfits : s.base + (s.regsUpTo x).length ≤ 0x1000 := hlen.symm ▸ hb
  exact ⟨_, hexec, fun r hr => exec_storeRegs_readByte hm hb hexec hr,
    fun a ha => Memory.readByte_writeBlock_outside hm hfits (by omega), Memory.wf_writeBlock hm hfits,
    sameBut_setMem s _⟩

/-- Settles O40: the new register file, read below and above the selector. -/
theorem loadRegistersReadsTheBlock : Obligations.LoadRegistersReadsTheBlock := by
  intro s x hb
  refine ⟨_, exec_loadRegs_in s x (outOfRange_eq_none.mpr (.inr hb)), fun r hr => ?_, fun r hr => ?_,
    sameBut_setV s _⟩
  · rw [State.readV_setV_ofFn, if_pos hr]
  · rw [State.readV_setV_ofFn, if_neg (Nat.not_le.mpr hr)]

end Sys2Proof.Machine
end

section
/-! SUPPORT. The encoder gives back the word that was decoded (30_encoding.md R94, R96), format by format (R92). -/

namespace Sys2Proof

/-! ### A word rebuilt from its class and the fields of its format -/

section Formats

variable {w : Word} {c : BitVec 4} (hc : (fieldClass w).toNat = c.toNat)

include hc

theorem wordNnn_of_class : wordNnn c (fieldNnn w) = w := by
  rw [← BitVec.eq_of_toNat_eq hc, wordNnn_fields]

theorem wordXkk_of_class : wordXkk c (fieldX w) (fieldKk w) = w := by
  rw [← BitVec.eq_of_toNat_eq hc, wordXkk_fields]

theorem wordXkk_of_class_kk {kk : Byte} (hkk : fieldKk w = kk) : wordXkk c (fieldX w) kk = w :=
  hkk ▸ wordXkk_of_class hc

theorem wordXyn_of_class : wordXyn c (fieldX w) (fieldY w) (fieldN w) = w := by
  rw [← BitVec.eq_of_toNat_eq hc, wordXyn_fields]

theorem wordXyn_of_class_n {n : Fin 16} (hn : (fieldN w).val = n.val) : wordXyn c (fieldX w) (fieldY w) n = w :=
  Fin.ext hn ▸ wordXyn_of_class hc

end Formats

/-- The word that decodes to an instruction is the instruction's own, in each class by the format of its words: the
arms of the decoder are its sixteen classes in order, from `h_1` for class 0. -/
theorem encodeWord_eq_of_decodeWord {w : Word} {i : Instr} (h : decodeWord w = some i) : encodeWord i = w := by
  unfold decodeWord at h
  dsimp only at h
  split at h
  case h_1 =>
    split_ifs at h with h0 h1 h2 <;> obtain rfl := Option.some.inj h
    · exact h0.symm
    · exact h1.symm
    · exact h2.symm
  case h_2 hc | h_3 hc | h_11 hc | h_12 hc =>
    obtain rfl := Option.some.inj h
    exact wordNnn_of_class hc
  case h_4 hc | h_5 hc | h_7 hc | h_8 hc | h_13 hc =>
    obtain rfl := Option.some.inj h
    exact wordXkk_of_class hc
  case h_6 hc | h_10 hc =>
    split_ifs at h with hn
    obtain rfl := Option.some.inj h
    exact wordXyn_of_class_n hc hn
  case h_9 hc =>
    split at h
    case h_10 => cases h
    all_goals
      obtain rfl := Option.some.inj h
      exact wordXyn_of_class_n hc ‹_›
  case h_14 hc =>
    obtain rfl := Option.some.inj h
    exact wordXyn_of_class hc
  case h_15 hc | h_16 hc =>
    split_ifs at h with hkk <;> obtain rfl := Option.some.inj h <;> exact wordXkk_of_class_kk hc ‹_›
  case h_17 => cases h

end Sys2Proof
end

section
/-! SUPPORT. Faults and the halted state (60_exceptions.md R231 to R239): a step that takes a fault, nested calls until
the stack is full, a tick of a halted block, and a history that holds no reset. -/

namespace Sys2Proof.Machine

variable {s t : State}

/-! ### Taking a fault (R236) -/

/-- An execution that sets the latch has taken a fault of its own instruction, and done nothing else. -/
theorem Effect.eq_raise_of_latches {i : Instr} (h : Effect s i t) (hs : s.fault = none) (ht : t.fault ≠ none) :
    ∃ c addr, t = s.raise c (s.pc - 2) (some (encodeWord i)) addr := by
  cases h with
  | fault => exact ⟨_, _, rfl⟩
  | skip => exact absurd ((State.skipIf_fault s _).trans hs) ht
  | _ => exact absurd hs ht

/-- A fault taken after the fetch is the fault taken in the state the step began in. -/
theorem State.raise_afterFetch (s : State) (c : Cause) (w : Option Word) (addr : Option Nat) :
    s.afterFetch.raise c (s.afterFetch.pc - 2) w addr = s.raise c s.pc w addr := by
  have hpc : s.afterFetch.pc - 2 = s.pc := by
    rw [State.afterFetch_pc]
    bv_omega
  rw [hpc]
  rfl

/-- A step that sets the latch has taken a fault at the address in PC, in the fetch with no word to record, or after it
with the word fetched. -/
theorem step_eq_raise_of_latches (hs : s.fault = none) (h : step s = .next t) (ht : t.fault ≠ none) :
    ∃ c w addr, t = s.raise c s.pc w addr ∧
      (s.pc.toNat ≤ 0xFFE ∧ (∃ v, s.fetch = .ok v ∧ w = some v) ∨ 0xFFE < s.pc.toNat ∧ w = none) := by
  obtain ⟨r, hr, -⟩ | ⟨-, hpc, e⟩ | ⟨v, -, hpc, hv, -, e⟩ | ⟨v, i, -, hpc, hv, hd, e⟩ := tickWith_cases s exec
  · cases hs.symm.trans hr
  · exact ⟨_, _, _, Host.Outcome.next.inj (h.symm.trans e), .inr ⟨hpc, rfl⟩⟩
  · exact ⟨_, _, _, Host.Outcome.next.inj (h.symm.trans e), .inl ⟨hpc, v, hv, rfl⟩⟩
  · obtain ⟨c, addr, he⟩ := (effect_of_exec (e.symm.trans h)).eq_raise_of_latches hs ht
    rw [State.raise_afterFetch, encodeWord_eq_of_decodeWord hd] at he
    exact ⟨c, some v, addr, he, .inl ⟨hpc, v, hv, rfl⟩⟩

/-- Settles O13: every fault of a step is one `raise` in the state the step began in. -/
theorem faultingStepHasNoOtherEffect : Obligations.FaultingStepHasNoOtherEffect := by
  intro s t hs h ht
  obtain ⟨c, w, addr, rfl, ⟨hpc, v, hv, rfl⟩ | ⟨hpc, rfl⟩⟩ := step_eq_raise_of_latches hs h ht
  · have hword : v = _ := Except.ok.inj (hv.symm.trans (State.fetch_of_le hpc))
    exact ⟨_, rfl, rfl, fun _ => congrArg some hword, fun hgt => absurd hpc (by omega)⟩
  · exact ⟨_, rfl, rfl, fun hle => absurd hpc (by omega), fun _ => rfl⟩

/-! ### Nested calls (R233) -/

/-- Nested calls for which the stack has room complete, and each takes one entry. -/
theorem callAll_of_room (targets : List Imm12) {s : State} (h : s.sp.val + targets.length ≤ 16) :
    ∃ t, callAll targets s = .next t ∧ t.fault = s.fault ∧ t.sp.val = s.sp.val + targets.length := by
  induction targets generalizing s with
  | nil => exact ⟨s, rfl, rfl, rfl⟩
  | cons target rest ih =>
    rw [List.length_cons] at h
    obtain ⟨u, hcall, hsp, -, -, -, hframe⟩ := callPushesTheReturnAddress.1 s target (by omega)
    obtain ⟨t, hrest, hfault, htop⟩ := ih (s := u) (by omega)
    refine ⟨t, ?_, hfault.trans (hframe .fault (by decide)), ?_⟩
    · rw [callAll, hcall]
      exact hrest
    · rw [htop, hsp, List.length_cons]
      omega

/-- Settles O21: sixteen calls fit the sixteen entries, and a CALL on a full stack only takes the fault. -/
theorem seventeenthNestedCallOverflows : Obligations.SeventeenthNestedCallOverflows := by
  refine ⟨fun s targets hsp hfault hlen => ?_,
    fun s nnn hsp => ⟨_, _, exec_call_of_full s nnn hsp, rfl, rfl, rfl, rfl, rfl⟩⟩
  obtain ⟨t, hcalls, hft, htop⟩ := callAll_of_room targets (s := s) (by omega)
  exact ⟨t, hcalls, hft.trans hfault, by omega⟩

/-! ### The halted state (R238) -/

section Halted

variable {r : FaultRecord} (h : s.fault = some r)

include h

theorem tickWith_of_halted (run : Instr → State → Result) : tickWith run s = .fault (.halted r) := by
  rw [tickWith, h]

theorem apply_tick_of_halted (rnd : Byte) : apply (.tick rnd) s = (s, .fault r) := by
  rw [apply, tick, tickWith_of_halted h]

end Halted

/-- Settles O11. -/
theorem haltedTickChangesNothing : Obligations.HaltedTickChangesNothing :=
  fun _ _ rnd h => ⟨tickWith_of_halted h exec, apply_tick_of_halted h rnd⟩

end Sys2Proof.Machine
end

section
/-! SUPPORT. The operations of the timer driver, the keypad and the display (60_exceptions.md R245 to R249): what each
answers and its frame; and the histories of a halted block (R238), in which only timers and keys change. -/

namespace Sys2Proof.Machine

/-! ### `timer_tick` (R245) -/

theorem toNat_timerDown (b : Byte) : (timerDown b).toNat = b.toNat - 1 := by
  unfold timerDown
  split <;> bv_omega

theorem sameBut_timerTick (s : State) : SameBut [.dt, .st] s s.timerTick :=
  (sameBut_setDt s _).trans (sameBut_setSt _ _)

/-- Settles O51. -/
theorem timerTickResult : Obligations.TimerTickResult :=
  fun s => ⟨s.timerTick, rfl, toNat_timerDown s.dt, toNat_timerDown s.st, sameBut_timerTick s⟩

/-! ### `set_key` (R249) -/

theorem apply_setKey_of_lt (s : State) (k : Fin 16) (b : Bool) : apply (.setKey k.val b) s = (s.setKey k b, .ok) := by
  rw [apply, dif_pos k.isLt]

theorem apply_setKey_of_ge (s : State) {k : Nat} (hk : 16 ≤ k) (b : Bool) :
    apply (.setKey k b) s = (s, .refused (.keyIndexOutOfContract k)) := by
  rw [apply, dif_neg (Nat.not_lt.mpr hk)]

theorem sameBut_setKey (s : State) (k : Fin 16) (b : Bool) : SameBut [.keys] s (s.setKey k b) := by
  intro f hf
  cases f with
  | keys => simp at hf
  | mem => exact fun _ => rfl
  | _ => rfl

/-- Settles O52: one entry of the key vector is set, or the index is refused, and no kind of effect writes a key. -/
theorem setKeyResult : Obligations.SetKeyResult := by
  refine ⟨fun s k b => ⟨s.setKey k b, apply_setKey_of_lt s k b, ?_, fun j hj => ?_, sameBut_setKey s k b⟩,
    fun s k b hk => apply_setKey_of_ge s hk b, fun i s t h => (effect_of_exec h).keys_loaded.1⟩
  · exact Vector.getElem_set_self k.isLt
  · exact Vector.getElem_set_ne k.isLt j.isLt fun e => hj (Fin.ext e.symm)

/-! ### `read_display` (R248) -/

theorem Screen.length_rowMajor (fb : Screen) : fb.rowMajor.length = 2048 := List.length_ofFn

/-- Settles O53. -/
theorem readDisplayResult : Obligations.ReadDisplayResult :=
  fun s => ⟨s.fb.rowMajor, rfl, s.fb.length_rowMajor, s.fb.rowMajor_getD⟩

/-! ### Histories of a halted block (R238) -/

/-- On a halted block an operation other than `reset` acts on the timers and the keys alone: the tick returns the
record, and a load comes too late. -/
theorem sameBut_apply_of_halted {s : State} {r : FaultRecord} {op : HostOp} (hf : s.fault = some r)
    (hs : s.started = true) (hop : op ≠ .reset) : SameBut [.dt, .st, .keys] s (apply op s).1 := by
  cases op with
  | reset => exact absurd rfl hop
  | loadProgram image =>
    rw [apply_loadProgram_of_closed image (.inr hs)]
    exact .refl _ s
  | tick rnd =>
    rw [apply_tick_of_halted hf]
    exact .refl _ s
  | timerTick => exact (sameBut_timerTick s).mono (by decide)
  | setKey k b =>
    obtain hk | hk := Nat.lt_or_ge k 16
    · rw [apply_setKey_of_lt s ⟨k, hk⟩]
      exact (sameBut_setKey s _ b).mono (by decide)
    · rw [apply_setKey_of_ge s hk]
      exact .refl _ s
  | readDisplay => exact .refl _ s

/-- The block stays halted through a history without `reset`, so every operation of it acts on a halted block. -/
theorem sameBut_applyAll_of_halted {s : State} {r : FaultRecord} {ops : List HostOp} (hf : s.fault = some r)
    (hs : s.started = true) (hops : ∀ op ∈ ops, op ≠ .reset) : SameBut [.dt, .st, .keys] s (applyAll ops s) := by
  induction ops generalizing s with
  | nil => exact .refl _ s
  | cons op ops ih =>
    obtain ⟨hop, hrest⟩ := List.forall_mem_cons.mp hops
    have hone := sameBut_apply_of_halted hf hs hop
    have hhalted : (apply op s).1.fault = some r := (hone .fault (by decide)).trans hf
    have hstarted : (apply op s).1.started = true := (hone .started (by decide)).trans hs
    exact (hone.trans (ih hhalted hstarted hrest)).mono (by decide)

/-- Settles O12: the latch is among the parts that a history of a halted block leaves. -/
theorem onlyResetLeavesTheHaltedState : Obligations.OnlyResetLeavesTheHaltedState := by
  intro ops s r hf hs hops
  have hframe := sameBut_applyAll_of_halted hf hs hops
  exact ⟨(hframe .fault (by decide)).trans hf, hframe⟩

end Sys2Proof.Machine
end

section
/-! SUPPORT. The decoder and the encoder are inverse to each other (30_encoding.md R94), and the decoder agrees with the
opcode map (R96): the row of an instruction is what its word holds in the bits its format fixes. -/

namespace Sys2Proof

/-! ### Decode of encode, and encode of decode -/

section RoundTrips

open Laws.RoundTrip

/-- The laws of the instructions, one per row of the opcode map, gathered for all of them. -/
theorem roundTrip : ∀ i, Statement i
  | .nop => nop | .cls => cls | .ret => ret
  | .jp a => jp a | .call a => call a | .ldI a => ldI a | .jpV0 a => jpV0 a
  | .seImm x b => seImm x b | .sneImm x b => sneImm x b | .ldImm x b => ldImm x b
  | .addImm x b => addImm x b | .rnd x b => rnd x b
  | .seReg x y => seReg x y | .sneReg x y => sneReg x y | .ldReg x y => ldReg x y
  | .orReg x y => orReg x y | .andReg x y => andReg x y | .xorReg x y => xorReg x y
  | .addReg x y => addReg x y | .subReg x y => subReg x y | .subnReg x y => subnReg x y
  | .shr x y => shr x y | .shl x y => shl x y | .drw x y n => drw x y n
  | .skp x => skp x | .sknp x => sknp x
  | .ldVxDt x => ldVxDt x | .ldVxK x => ldVxK x | .ldDtVx x => ldDtVx x | .ldStVx x => ldStVx x
  | .addI x => addI x | .ldF x => ldF x | .ldB x => ldB x
  | .storeRegs x => storeRegs x | .loadRegs x => loadRegs x

end RoundTrips

theorem decodeWord_encodeWord (i : Instr) : decodeWord (encodeWord i) = some i := (roundTrip i).2

/-- Settles O3: the bytes of an instruction are read back as its word, which decodes to it. -/
theorem decodeInvertsEncode : Obligations.DecodeInvertsEncode := by
  intro i rest _
  rw [encode, decode_bytesOfWord, decodeWord_encodeWord]

/-- Settles O4: the encoder gives back every word that decodes. -/
theorem encodeInvertsDecode : Obligations.EncodeInvertsDecode := fun _ _ => encodeWord_eq_of_decodeWord

/-- Settles O2, by evaluating the decoder on the ten words. -/
theorem familyWordsDecode : Obligations.FamilyWordsDecode :=
  ⟨rfl, rfl, rfl, rfl, rfl, rfl, rfl, rfl, rfl, rfl⟩

/-! ### The row of an instruction -/

/-- The bits of the word that the instruction's pattern fixes: all of them in the three whole words, the class when
every other bit is an operand's, and with the class the low nibble in the format XYS, the low byte in XSS
(30_encoding.md R92). -/
def Instr.fixedBits : Instr → Word
  | .nop | .cls | .ret => 0xFFFF
  | .jp _ | .call _ | .ldI _ | .jpV0 _ => 0xF000
  | .seImm _ _ | .sneImm _ _ | .ldImm _ _ | .addImm _ _ | .rnd _ _ | .drw _ _ _ => 0xF000
  | .seReg _ _ | .sneReg _ _ | .ldReg _ _ | .orReg _ _ | .andReg _ _ | .xorReg _ _ => 0xF00F
  | .addReg _ _ | .subReg _ _ | .shr _ _ | .subnReg _ _ | .shl _ _ => 0xF00F
  | .skp _ | .sknp _ | .ldVxDt _ | .ldVxK _ | .ldDtVx _ | .ldStVx _ | .addI _ => 0xF0FF
  | .ldF _ | .ldB _ | .storeRegs _ | .loadRegs _ => 0xF0FF

/-- The row of R96 as the encoder gives it: the fixed bits, and what the instruction's word holds there. -/
def Instr.row (i : Instr) : OpcodeRow := ⟨i.mnemonic, encodeWord i &&& i.fixedBits, i.fixedBits⟩

/-! ### A word under the three masks with operands -/

section Masked

variable (w : Word)

theorem and_F000_eq : w &&& 0xF000 = wordNnn (fieldClass w) 0 := by
  have hc : fieldClass (w &&& 0xF000) = fieldClass w := BitVec.extractLsb'_and.trans BitVec.and_allOnes
  have hnnn : fieldNnn (w &&& 0xF000) = 0 := BitVec.extractLsb'_and.trans BitVec.and_zero
  rw [← wordNnn_fields (w &&& 0xF000), hc, hnnn]

theorem and_F00F_eq : w &&& 0xF00F = wordXyn (fieldClass w) 0 0 (fieldN w) := by
  have hc : fieldClass (w &&& 0xF00F) = fieldClass w := BitVec.extractLsb'_and.trans BitVec.and_allOnes
  have hx : fieldX (w &&& 0xF00F) = 0 := congrArg BitVec.toFin (BitVec.extractLsb'_and.trans BitVec.and_zero)
  have hy : fieldY (w &&& 0xF00F) = 0 := congrArg BitVec.toFin (BitVec.extractLsb'_and.trans BitVec.and_zero)
  have hn : fieldN (w &&& 0xF00F) = fieldN w :=
    congrArg BitVec.toFin (BitVec.extractLsb'_and.trans BitVec.and_allOnes)
  rw [← wordXyn_fields (w &&& 0xF00F), hc, hx, hy, hn]

theorem and_F0FF_eq : w &&& 0xF0FF = wordXkk (fieldClass w) 0 (fieldKk w) := by
  have hc : fieldClass (w &&& 0xF0FF) = fieldClass w := BitVec.extractLsb'_and.trans BitVec.and_allOnes
  have hx : fieldX (w &&& 0xF0FF) = 0 := congrArg BitVec.toFin (BitVec.extractLsb'_and.trans BitVec.and_zero)
  have hkk : fieldKk (w &&& 0xF0FF) = fieldKk w := BitVec.extractLsb'_and.trans BitVec.and_allOnes
  rw [← wordXkk_fields (w &&& 0xF0FF), hc, hx, hkk]

variable {w} {v : Word}

theorem fieldClass_eq_of_and_F000 (h : w &&& 0xF000 = v &&& 0xF000) : fieldClass w = fieldClass v := by
  rw [and_F000_eq, and_F000_eq] at h
  simpa using congrArg fieldClass h

theorem fields_eq_of_and_F00F (h : w &&& 0xF00F = v &&& 0xF00F) :
    fieldClass w = fieldClass v ∧ fieldN w = fieldN v := by
  rw [and_F00F_eq, and_F00F_eq] at h
  exact ⟨by simpa using congrArg fieldClass h, by simpa using congrArg fieldN h⟩

theorem fields_eq_of_and_F0FF (h : w &&& 0xF0FF = v &&& 0xF0FF) :
    fieldClass w = fieldClass v ∧ fieldKk w = fieldKk v := by
  rw [and_F0FF_eq, and_F0FF_eq] at h
  exact ⟨by simpa using congrArg fieldClass h, by simpa using congrArg fieldKk h⟩

end Masked

/-! ### The opcode map (R96) -/

/-- The operands drop out of the masked word, so the row is one of the table's. -/
theorem row_mem_opcodeMap (i : Instr) : i.row ∈ opcodeMap := by
  cases i with
  | nop | cls | ret => decide
  | jp | call | ldI | jpV0 | seImm | sneImm | ldImm | addImm | rnd | drw =>
    rw [Instr.row, Instr.fixedBits, and_F000_eq, encodeWord]
    simp only [fieldClass_wordNnn, fieldClass_wordXkk, fieldClass_wordXyn, Instr.mnemonic]
    decide
  | seReg | sneReg | ldReg | orReg | andReg | xorReg | addReg | subReg | shr | subnReg | shl =>
    rw [Instr.row, Instr.fixedBits, and_F00F_eq, encodeWord, fieldClass_wordXyn, fieldN_wordXyn, Instr.mnemonic]
    decide
  | skp | sknp | ldVxDt | ldVxK | ldDtVx | ldStVx | addI | ldF | ldB | storeRegs | loadRegs =>
    rw [Instr.row, Instr.fixedBits, and_F0FF_eq, encodeWord, fieldClass_wordXkk, fieldKk_wordXkk, Instr.mnemonic]
    decide

/-- Every row of the table is the row of the instruction that its match decodes to. -/
theorem row_of_mem_opcodeMap : ∀ r ∈ opcodeMap, (decodeWord r.value).map Instr.row = some r := by
  decide

theorem nodup_mnemonics : (opcodeMap.map OpcodeRow.mnemonic).Nodup := by
  decide

/-- Two words alike in the bits that an instruction fixes decode to instructions of the same row. -/
theorem decodeWord_of_fixedBits {i : Instr} {w : Word} (h : w &&& i.fixedBits = encodeWord i &&& i.fixedBits) :
    ∃ j, decodeWord w = some j ∧ j.mnemonic = i.mnemonic := by
  cases i with
  | nop | cls | ret =>
    obtain rfl := (BitVec.and_allOnes.symm.trans h).trans BitVec.and_allOnes
    exact ⟨_, decodeWord_encodeWord _, rfl⟩
  | jp | call | ldI | jpV0 | seImm | sneImm | ldImm | addImm | rnd | drw =>
    have hc := fieldClass_eq_of_and_F000 h
    simp only [encodeWord, fieldClass_wordNnn, fieldClass_wordXkk, fieldClass_wordXyn] at hc
    simp [decodeWord, hc, Instr.mnemonic]
  | seReg | sneReg | ldReg | orReg | andReg | xorReg | addReg | subReg | shr | subnReg | shl =>
    obtain ⟨hc, hn⟩ := fields_eq_of_and_F00F h
    rw [encodeWord, fieldClass_wordXyn] at hc
    rw [encodeWord, fieldN_wordXyn] at hn
    simp [decodeWord, hc, hn, Instr.mnemonic]
  | skp | sknp | ldVxDt | ldVxK | ldDtVx | ldStVx | addI | ldF | ldB | storeRegs | loadRegs =>
    obtain ⟨hc, hkk⟩ := fields_eq_of_and_F0FF h
    rw [encodeWord, fieldClass_wordXkk] at hc
    rw [encodeWord, fieldKk_wordXkk] at hkk
    simp [decodeWord, hc, hkk, Instr.mnemonic]

/-- R96: a word matches a row exactly when it decodes to an instruction of the row. -/
theorem matches_iff_decodeWord (w : Word) {r : OpcodeRow} (hr : r ∈ opcodeMap) :
    w &&& r.mask = r.value ↔ ∃ i, decodeWord w = some i ∧ i.mnemonic = r.mnemonic := by
  constructor
  · intro h
    obtain ⟨i, -, rfl⟩ := Option.map_eq_some_iff.mp (row_of_mem_opcodeMap r hr)
    exact decodeWord_of_fixedBits h
  · rintro ⟨i, hi, hm⟩
    obtain rfl : i.row = r := List.inj_on_of_nodup_map nodup_mnemonics (row_mem_opcodeMap i) hr hm
    rw [← encodeWord_eq_of_decodeWord hi]
    rfl

/-- Settles O5: a word that matched two rows would decode to instructions of both, and their mnemonics differ. -/
theorem decodeAgreesWithOpcodeMap : Obligations.DecodeAgreesWithOpcodeMap := by
  refine ⟨fun w r hr => matches_iff_decodeWord w hr, rfl, ?_⟩
  refine (List.pairwise_map.mp nodup_mnemonics).imp_of_mem fun hp hq hne => ⟨hne, fun w hw => ?_⟩
  obtain ⟨i, hi, hip⟩ := (matches_iff_decodeWord w hp).mp hw.1
  obtain ⟨j, hj, hjq⟩ := (matches_iff_decodeWord w hq).mp hw.2
  obtain rfl : i = j := Option.some.inj (hi.symm.trans hj)
  exact hne (hip.symm.trans hjq)

end Sys2Proof
end

section
/-! SUPPORT. Faults and totality (60_exceptions.md R231 to R235, 90_conflicts.md C5): what an instruction that latches
has reported, and the two faults a tick takes before it executes anything. -/

namespace Sys2Proof.Machine

/-! ### The execute phase -/

/-- Settles O14: every instruction has one of the kinds of effect. -/
theorem everyInstructionAnswersANextState : Obligations.EveryInstructionAnswersANextState := by
  intro i s
  obtain ⟨t, ht, -⟩ := exec_effect i s
  exact ⟨t, ht⟩

/-- The address a range check reports: the base, or the end of memory when the block begins before it (decision D9). -/
theorem eq_max_of_outOfRange {base n bad : Nat} (h : outOfRange base n = some bad) : bad = max base 0x1000 := by
  obtain ⟨hbad, hbase, -, hlowest⟩ := outOfRange_eq_some h
  have := hlowest (bad - 1)
  omega

/-- How many bytes the four memory instructions access (20_memory.md R69). -/
theorem accesses_eq_of_memory_form {i : Instr} {n : Nat}
    (h : (∃ x y m, i = .drw x y m ∧ n = m.val) ∨ (∃ x, i = .ldB x ∧ n = 3) ∨
      ∃ x, (i = .storeRegs x ∨ i = .loadRegs x) ∧ n = x.val + 1) : n = i.accesses := by
  obtain ⟨x, y, m, rfl, rfl⟩ | ⟨x, rfl, rfl⟩ | ⟨x, rfl | rfl, rfl⟩ := h <;> rfl

/-- An instruction that commits made no access outside memory. -/
theorem accesses_inside_of_running {i : Instr} {s t : State} (h : exec i s = .next t) (ht : t.fault = none) :
    i.accesses = 0 ∨ s.base + i.accesses ≤ 0x1000 := by
  by_contra hout
  obtain ⟨hn, hlt⟩ : i.accesses ≠ 0 ∧ 0x1000 < s.base + i.accesses := by omega
  obtain rfl := Host.Outcome.next.inj (h.symm.trans (dataAccessOutsideMemoryFaults i s hn hlt))
  cases ht

/-- Taking a fault sets the latch, and to the one record named. -/
theorem latch_of_raiseIn {s t : State} {i : Instr} {c : Cause} {addr : Option Nat} {P : FaultRecord → Prop} {Q : Prop}
    (h : s.raiseIn i c addr = .next t) (hP : P ⟨c, s.pc - 2, some (encodeWord i), addr⟩) :
    (∀ r, t.fault = some r → P r) ∧ (t.fault = none → Q) := by
  obtain rfl := Host.Outcome.next.inj h
  refine ⟨?_, nofun⟩
  rintro _ ⟨⟩
  exact hP

/-- Settles O15: each fault by the condition it was taken under, and a commit by the conditions that did not hold. -/
theorem instructionsFaultExactlyWhen : Obligations.InstructionsFaultExactlyWhen := by
  intro i s t hs h
  obtain ⟨u, e, hf, -, -, -, hcall, hret, hkey⟩ | ⟨e, hsp, hi⟩ | ⟨e, hsp, hi⟩ | ⟨x, e, hx, hi⟩ |
    ⟨n, bad, e, hbad, hi⟩ := exec_commits_or_faults s i
  · obtain rfl := Host.Outcome.next.inj (h.symm.trans e)
    have ht : t.fault = none := hf.trans hs
    exact ⟨fun r hr => absurd (ht.symm.trans hr) nofun, fun _ => ⟨hcall, hret, accesses_inside_of_running h ht,
      fun x hi => Nat.le_of_lt_succ (hkey x hi)⟩⟩
  · exact latch_of_raiseIn (e.symm.trans h) (.inl ⟨rfl, rfl, hsp, hi⟩)
  · exact latch_of_raiseIn (e.symm.trans h) (.inr (.inl ⟨rfl, rfl, hsp, hi⟩))
  · exact latch_of_raiseIn (e.symm.trans h) (.inr (.inr (.inr ⟨rfl, x, hi, Nat.le_of_not_lt hx, rfl⟩)))
  · obtain rfl := accesses_eq_of_memory_form hi
    obtain ⟨hend, hbase, hlt, -⟩ := outOfRange_eq_some hbad
    exact latch_of_raiseIn (e.symm.trans h)
      (.inr (.inr (.inl ⟨rfl, congrArg some (eq_max_of_outOfRange hbad), by omega, by omega⟩)))

/-! ### The fetch and the decoder -/

/-- A fetch from above 0xFFE fails at the first byte that does not exist (40_control_flow.md R121). -/
theorem State.fetch_of_gt {s : State} (h : 0xFFE < s.pc.toNat) : s.fetch = .error (max s.pc.toNat 0x1000) := by
  rw [State.fetch, Memory.read2_eq, if_neg (Nat.not_le.mpr h)]

/-- Settles O9: of the addresses above 0xFFE only 0xFFF still has a byte. -/
theorem fetchOutsideMemoryFaults : Obligations.FetchOutsideMemoryFaults := by
  intro s hs hpc
  have haddr : max s.pc.toNat 0x1000 = if s.pc.toNat = 0xFFF then 0x1000 else s.pc.toNat := by
    split <;> omega
  simp only [step, tickWith, hs, State.fetch_of_gt hpc, haddr]
  rfl

/-- Settles O10: the fetch completes, and the decoder refuses its word. -/
theorem undefinedWordFaults : Obligations.UndefinedWordFaults := by
  rintro s _ hs hpc rfl hd
  simp only [step, tickWith, hs, State.fetch_of_le hpc, hd]
  rfl

end Sys2Proof.Machine
end

section
/-! SUPPORT. The logic instructions (42_alu.md R157 to R159), the two spins that leave the state as it is
(70_reset_and_hazards.md R279, 45_keypad.md R203), and the state that `reset` gives (10_state.md R39). -/

namespace Sys2Proof.Machine

/-! ### The logic instructions -/

/-- What an instruction that writes V[x] alone leaves, given the bits of the byte it writes. -/
theorem exec_writeV_bits {i : Instr} {s : State} {x : Reg} {result : Byte} {bit : Nat → Bool}
    (h : exec i s = .next (s.writeV x result)) (hbit : ∀ k, result.getLsbD k = bit k) :
    ∃ t, exec i s = .next t ∧ (∀ k < 8, (t.readV x).getLsbD k = bit k) ∧ SameRegsBut [x] s t ∧ SameBut [.v] s t := by
  refine ⟨_, h, fun k _ => ?_, sameRegsBut_writeV s x _, sameBut_writeV s x _⟩
  rw [State.readV_writeV_self, hbit]

/-- Settles O25: each of the three is one write to V[x], of a byte known bit by bit. -/
theorem logicResults : Obligations.LogicResults :=
  fun _ _ _ => ⟨exec_writeV_bits rfl fun _ => BitVec.getLsbD_or, exec_writeV_bits rfl fun _ => BitVec.getLsbD_and,
    exec_writeV_bits rfl fun _ => BitVec.getLsbD_xor⟩

/-! ### The spins -/

/-- An execution that puts PC back to the address fetched from restores a state in which a tick had happened. -/
theorem State.setPc_afterFetch {s : State} {pc : Word} (hstarted : s.started = true) (hpc : pc = s.pc) :
    s.afterFetch.setPc pc = s := by
  subst hpc
  cases s
  cases hstarted
  rfl

/-- Settles O46: both spins end in a move of PC back to where the fetch began. -/
theorem spinsLeaveTheStateUnchanged : Obligations.SpinsLeaveTheStateUnchanged := by
  rintro s _ hs hstarted hpc rfl
  refine ⟨fun nnn hd hnnn => ?_, fun x hd hkeys => ?_⟩
  · have hback : zextImm nnn = s.pc := BitVec.eq_of_toNat_eq ((toNat_zextImm nnn).trans hnnn)
    calc step s
      _ = exec (.jp nnn) s.afterFetch := step_eq_exec hs hpc (by simp only [decode, hd])
      _ = .next (s.afterFetch.setPc (zextImm nnn)) := rfl
      _ = .next s := by rw [State.setPc_afterFetch hstarted hback]
  · have hback : s.pc + 2 - 2 = s.pc := BitVec.add_sub_cancel s.pc 2
    calc step s
      _ = exec (.ldVxK x) s.afterFetch := step_eq_exec hs hpc (by simp only [decode, hd])
      _ = .next s.afterFetch.repeatInstr := exec_ldVxK_of_none s.afterFetch x (firstPressed_eq_none.mpr hkeys)
      _ = .next (s.afterFetch.setPc (s.pc + 2 - 2)) := rfl
      _ = .next s := by rw [State.setPc_afterFetch hstarted hback]

/-! ### Reset -/

theorem length_fontTable : fontTable.length = 80 := rfl

/-- At reset the font lies at 0x50 to 0x9F (10_state.md R38, R39). -/
theorem Memory.unlisted_font (k : Nat) : Memory.unlisted (0x50 + k) = fontTable.getD k 0 := by
  rw [Memory.unlisted, if_pos (Nat.le_add_right _ _), Nat.add_sub_cancel_left]

/-- Every other byte is zero at reset. -/
theorem Memory.unlisted_outside_font {a : Nat} (h : a < 0x50 ∨ 0xA0 ≤ a) : Memory.unlisted a = 0 := by
  by_cases hle : 0x50 ≤ a
  · have hpast : fontTable.length ≤ a - 0x50 := by
      rw [length_fontTable]
      omega
    exact (if_pos hle).trans (List.getD_eq_default _ _ hpast)
  · exact if_neg hle

/-- Settles O57: no field depends on the state before, and the empty memory reads as its contents at reset. -/
theorem resetResult : Obligations.ResetResult :=
  fun _ => ⟨State.reset, rfl, rfl, rfl, rfl, by decide, rfl, rfl, rfl, by decide, Screen.pixel_clear, by decide,
    rfl, rfl, rfl, length_fontTable, fun k _ => Memory.unlisted_font k, fun a => Memory.unlisted_outside_font⟩

end Sys2Proof.Machine
end
